-- ==== Sys2Proof/Word.lean ====
section
/-! DEFINITION. The word types of the machine (spec/00_scope.md R7, R9): all are unsigned (R10). -/

namespace Sys2Proof

/-- A general register, an immediate `kk`, a memory byte, a timer (R7). -/
abbrev Byte := BitVec 8

/-- An instruction word, and every register that holds an address: `PC`, `I`, `FONT_BASE`, `Stack[j]` (R7). -/
abbrev Word := BitVec 16

/-- A register index `x` or `y`, a sprite height `n`, an ignored nibble (R101). -/
abbrev Nibble := BitVec 4

/-- A 12-bit address `nnn` (R101). -/
abbrev Addr12 := BitVec 12

end Sys2Proof
end

