-- ==== Sys2Proof/Syntax.lean ====
section
/-! DEFINITION. The instructions: one constructor per row of spec/30_encoding.md R110, in its order. -/

namespace Sys2Proof

/-- The 34 instructions (R110). `x` and `y` are register indices, `n` a height, `kk` a byte, `nnn` an address (R101).
`ign` is the nibble outside the dispatch keys (R109): it takes no part in the meaning and is kept so that an
instruction gives back its word (log 14). -/
inductive Instr where
  | cls (ign : Nibble)
  | ret (ign : Nibble)
  | jp (nnn : Addr12)
  | call (nnn : Addr12)
  | seImm (x : Nibble) (kk : Byte)
  | sneImm (x : Nibble) (kk : Byte)
  | seReg (x y ign : Nibble)
  | ldImm (x : Nibble) (kk : Byte)
  | addImm (x : Nibble) (kk : Byte)
  | ldReg (x y : Nibble)
  | or (x y : Nibble)
  | and (x y : Nibble)
  | xor (x y : Nibble)
  | addReg (x y : Nibble)
  | sub (x y : Nibble)
  | shr (x y : Nibble)
  | subn (x y : Nibble)
  | shl (x y : Nibble)
  | sneReg (x y ign : Nibble)
  | ldI (nnn : Addr12)
  | jpo (nnn : Addr12)
  | rnd (x : Nibble) (kk : Byte)
  | drw (x y n : Nibble)
  | skp (x : Nibble)
  | sknp (x : Nibble)
  | ldVxDt (x : Nibble)
  | ldVxK (x : Nibble)
  | ldDtVx (x : Nibble)
  | ldStVx (x : Nibble)
  | addIVx (x : Nibble)
  | ldFVx (x : Nibble)
  | ldBVx (x : Nibble)
  | ldMemVx (x : Nibble)
  | ldVxMem (x : Nibble)
  deriving DecidableEq, Repr

end Sys2Proof
end

