-- ==== Sys2Proof/WellFormed.lean ====
section
/-! DEFINITION. Which instructions have a word that decodes (spec/30_encoding.md R109, R114). The operand types bound
every other field. -/

namespace Sys2Proof

/-- The nibble of the word that R109 calls ignored, where the instruction has one. -/
def Instr.ignored : Instr → Option Nibble
  | .cls ign => some ign
  | .ret ign => some ign
  | .seReg _ _ ign => some ign
  | .sneReg _ _ ign => some ign
  | .jp _ => none
  | .call _ => none
  | .seImm _ _ => none
  | .sneImm _ _ => none
  | .ldImm _ _ => none
  | .addImm _ _ => none
  | .ldReg _ _ => none
  | .or _ _ => none
  | .and _ _ => none
  | .xor _ _ => none
  | .addReg _ _ => none
  | .sub _ _ => none
  | .shr _ _ => none
  | .subn _ _ => none
  | .shl _ _ => none
  | .ldI _ => none
  | .jpo _ => none
  | .rnd _ _ => none
  | .drw _ _ _ => none
  | .skp _ => none
  | .sknp _ => none
  | .ldVxDt _ => none
  | .ldVxK _ => none
  | .ldDtVx _ => none
  | .ldStVx _ => none
  | .addIVx _ => none
  | .ldFVx _ => none
  | .ldBVx _ => none
  | .ldMemVx _ => none
  | .ldVxMem _ => none

/-- Under `STRICT_DECODE` an ignored nibble is zero (R114); otherwise every instruction is well formed (R109). -/
def Instr.wf (strict : Bool) (i : Instr) : Bool :=
  !strict || i.ignored.all (· == 0)

end Sys2Proof
end

