-- ==== Sys2Proof/Decode.lean ====
section
/-! DEFINITION. The decoder (spec/30_encoding.md R101 to R114) and, after it, the encoder written from the same
encodings. -/

namespace Sys2Proof

/-- Why no instruction is read. -/
inductive DecodeError where
  /-- The word matches no row of R110 (R112). -/
  | unimplemented (w : Word)
  /-- Fewer than two bytes are left, so there is no word to read (R100). -/
  | truncated
  deriving DecidableEq, Repr

/-- `op = w[15:12]` (R101). -/
def opOf (w : Word) : Nibble := w.extractLsb' 12 4

/-- `x = w[11:8]` (R101). -/
def xOf (w : Word) : Nibble := w.extractLsb' 8 4

/-- `y = w[7:4]` (R101). -/
def yOf (w : Word) : Nibble := w.extractLsb' 4 4

/-- `n = w[3:0]` (R101). -/
def nOf (w : Word) : Nibble := w.extractLsb' 0 4

/-- `kk = w[7:0]` (R101). -/
def kkOf (w : Word) : Byte := w.extractLsb' 0 8

/-- `nnn = w[11:0]` (R101). -/
def nnnOf (w : Word) : Addr12 := w.extractLsb' 0 12

/-- Group 0x0, dispatched again on the low byte (R105, R109, R114). -/
def decodeGroup0 (strict : Bool) (w : Word) : Except DecodeError Instr :=
  if strict && xOf w != 0 then .error (.unimplemented w)
  else if kkOf w = 0xE0 then .ok (.cls (xOf w))
  else if kkOf w = 0xEE then .ok (.ret (xOf w))
  else .error (.unimplemented w)

/-- Groups 0x5 and 0x9: the low nibble is ignored unless `STRICT_DECODE` (R109, R114). -/
def decodeSkipReg (strict : Bool) (w : Word) (i : Instr) : Except DecodeError Instr :=
  if strict && nOf w != 0 then .error (.unimplemented w) else .ok i

/-- Group 0x8, dispatched again on the low nibble (R106). -/
def decodeGroup8 (w : Word) : Except DecodeError Instr :=
  let x := xOf w
  let y := yOf w
  if nOf w = 0x0 then .ok (.ldReg x y)
  else if nOf w = 0x1 then .ok (.or x y)
  else if nOf w = 0x2 then .ok (.and x y)
  else if nOf w = 0x3 then .ok (.xor x y)
  else if nOf w = 0x4 then .ok (.addReg x y)
  else if nOf w = 0x5 then .ok (.sub x y)
  else if nOf w = 0x6 then .ok (.shr x y)
  else if nOf w = 0x7 then .ok (.subn x y)
  else if nOf w = 0xE then .ok (.shl x y)
  else .error (.unimplemented w)

/-- Group 0xE, dispatched again on the low byte (R107). -/
def decodeGroupE (w : Word) : Except DecodeError Instr :=
  if kkOf w = 0x9E then .ok (.skp (xOf w))
  else if kkOf w = 0xA1 then .ok (.sknp (xOf w))
  else .error (.unimplemented w)

/-- Group 0xF, dispatched again on the low byte (R108). -/
def decodeGroupF (w : Word) : Except DecodeError Instr :=
  let x := xOf w
  if kkOf w = 0x07 then .ok (.ldVxDt x)
  else if kkOf w = 0x0A then .ok (.ldVxK x)
  else if kkOf w = 0x15 then .ok (.ldDtVx x)
  else if kkOf w = 0x18 then .ok (.ldStVx x)
  else if kkOf w = 0x1E then .ok (.addIVx x)
  else if kkOf w = 0x29 then .ok (.ldFVx x)
  else if kkOf w = 0x33 then .ok (.ldBVx x)
  else if kkOf w = 0x55 then .ok (.ldMemVx x)
  else if kkOf w = 0x65 then .ok (.ldVxMem x)
  else .error (.unimplemented w)

/-- `Decode(w)`, the dispatch multiplexer (R104, R111). -/
def decodeWord (strict : Bool) (w : Word) : Except DecodeError Instr :=
  let op := opOf w
  if op = 0x0 then decodeGroup0 strict w
  else if op = 0x1 then .ok (.jp (nnnOf w))
  else if op = 0x2 then .ok (.call (nnnOf w))
  else if op = 0x3 then .ok (.seImm (xOf w) (kkOf w))
  else if op = 0x4 then .ok (.sneImm (xOf w) (kkOf w))
  else if op = 0x5 then decodeSkipReg strict w (.seReg (xOf w) (yOf w) (nOf w))
  else if op = 0x6 then .ok (.ldImm (xOf w) (kkOf w))
  else if op = 0x7 then .ok (.addImm (xOf w) (kkOf w))
  else if op = 0x8 then decodeGroup8 w
  else if op = 0x9 then decodeSkipReg strict w (.sneReg (xOf w) (yOf w) (nOf w))
  else if op = 0xA then .ok (.ldI (nnnOf w))
  else if op = 0xB then .ok (.jpo (nnnOf w))
  else if op = 0xC then .ok (.rnd (xOf w) (kkOf w))
  else if op = 0xD then .ok (.drw (xOf w) (yOf w) (nOf w))
  else if op = 0xE then decodeGroupE w
  else decodeGroupF w

/-- A word from its two bytes, the byte at the lower address first and in the high half (R72). -/
def wordOfBytes (hi lo : Byte) : Word := hi ++ lo

/-- The byte of `w` at the lower address (R72). -/
def highByte (w : Word) : Byte := w.extractLsb' 8 8

/-- The byte of `w` at the higher address (R72). -/
def lowByte (w : Word) : Byte := w.extractLsb' 0 8

/-- Reads one instruction off a list of bytes and gives back the bytes that are left (R72, R100, R111). -/
def decode (strict : Bool) : List Byte → Except DecodeError (Instr × List Byte)
  | hi :: lo :: rest =>
    match decodeWord strict (wordOfBytes hi lo) with
    | .ok i => .ok (i, rest)
    | .error e => .error e
  | [_] => .error .truncated
  | [] => .error .truncated

/-- The bytes of an instruction whose bits, numbered as the opcode table numbers them, are `w`: the one word of R100,
high byte first (R72); every bit from `nbits` up is 0. -/
def tableBytes (nbits w : Nat) : List Byte :=
  let word : Word := BitVec.ofNat 16 (w % 2 ^ nbits)
  [highByte word, lowByte word]

/-- What the decoder reads from an opcode-table word, with the default `STRICT_DECODE` (R7). -/
def decodeTableWord (nbits w : Nat) : Option Instr :=
  match decode false (tableBytes nbits w) with
  | .ok (i, _) => some i
  | .error _ => none

/-- The formats A (R103): `op nnn`. -/
def packA (op : Nibble) (nnn : Addr12) : Word := op ++ nnn

/-- The formats XK, X and N (R103): `op x kk`. -/
def packXK (op x : Nibble) (kk : Byte) : Word := op ++ (x ++ kk)

/-- The formats XY and XYN (R103): `op x y n`. -/
def packXYN (op x y n : Nibble) : Word := op ++ (x ++ (y ++ n))

/-- The word of an instruction, from the patterns of R110. -/
def encode : Instr → Word
  | .cls ign => packXK 0x0 ign 0xE0
  | .ret ign => packXK 0x0 ign 0xEE
  | .jp nnn => packA 0x1 nnn
  | .call nnn => packA 0x2 nnn
  | .seImm x kk => packXK 0x3 x kk
  | .sneImm x kk => packXK 0x4 x kk
  | .seReg x y ign => packXYN 0x5 x y ign
  | .ldImm x kk => packXK 0x6 x kk
  | .addImm x kk => packXK 0x7 x kk
  | .ldReg x y => packXYN 0x8 x y 0x0
  | .or x y => packXYN 0x8 x y 0x1
  | .and x y => packXYN 0x8 x y 0x2
  | .xor x y => packXYN 0x8 x y 0x3
  | .addReg x y => packXYN 0x8 x y 0x4
  | .sub x y => packXYN 0x8 x y 0x5
  | .shr x y => packXYN 0x8 x y 0x6
  | .subn x y => packXYN 0x8 x y 0x7
  | .shl x y => packXYN 0x8 x y 0xE
  | .sneReg x y ign => packXYN 0x9 x y ign
  | .ldI nnn => packA 0xA nnn
  | .jpo nnn => packA 0xB nnn
  | .rnd x kk => packXK 0xC x kk
  | .drw x y n => packXYN 0xD x y n
  | .skp x => packXK 0xE x 0x9E
  | .sknp x => packXK 0xE x 0xA1
  | .ldVxDt x => packXK 0xF x 0x07
  | .ldVxK x => packXK 0xF x 0x0A
  | .ldDtVx x => packXK 0xF x 0x15
  | .ldStVx x => packXK 0xF x 0x18
  | .addIVx x => packXK 0xF x 0x1E
  | .ldFVx x => packXK 0xF x 0x29
  | .ldBVx x => packXK 0xF x 0x33
  | .ldMemVx x => packXK 0xF x 0x55
  | .ldVxMem x => packXK 0xF x 0x65

/-- The two bytes of an instruction as memory holds them (R72). -/
def encodeBytes (i : Instr) : List Byte := [highByte (encode i), lowByte (encode i)]

/-- The `match` column of R110. -/
def Instr.pattern : Instr → Word
  | .cls _ => 0x00E0
  | .ret _ => 0x00EE
  | .jp _ => 0x1000
  | .call _ => 0x2000
  | .seImm _ _ => 0x3000
  | .sneImm _ _ => 0x4000
  | .seReg _ _ _ => 0x5000
  | .ldImm _ _ => 0x6000
  | .addImm _ _ => 0x7000
  | .ldReg _ _ => 0x8000
  | .or _ _ => 0x8001
  | .and _ _ => 0x8002
  | .xor _ _ => 0x8003
  | .addReg _ _ => 0x8004
  | .sub _ _ => 0x8005
  | .shr _ _ => 0x8006
  | .subn _ _ => 0x8007
  | .shl _ _ => 0x800E
  | .sneReg _ _ _ => 0x9000
  | .ldI _ => 0xA000
  | .jpo _ => 0xB000
  | .rnd _ _ => 0xC000
  | .drw _ _ _ => 0xD000
  | .skp _ => 0xE09E
  | .sknp _ => 0xE0A1
  | .ldVxDt _ => 0xF007
  | .ldVxK _ => 0xF00A
  | .ldDtVx _ => 0xF015
  | .ldStVx _ => 0xF018
  | .addIVx _ => 0xF01E
  | .ldFVx _ => 0xF029
  | .ldBVx _ => 0xF033
  | .ldMemVx _ => 0xF055
  | .ldVxMem _ => 0xF065

/-- The `mask` column of R110, and what R110 says of it under `STRICT_DECODE = true`. -/
def Instr.mask (strict : Bool) : Instr → Word
  | .cls _ => if strict then 0xFFFF else 0xF0FF
  | .ret _ => if strict then 0xFFFF else 0xF0FF
  | .jp _ => 0xF000
  | .call _ => 0xF000
  | .seImm _ _ => 0xF000
  | .sneImm _ _ => 0xF000
  | .seReg _ _ _ => if strict then 0xF00F else 0xF000
  | .ldImm _ _ => 0xF000
  | .addImm _ _ => 0xF000
  | .ldReg _ _ => 0xF00F
  | .or _ _ => 0xF00F
  | .and _ _ => 0xF00F
  | .xor _ _ => 0xF00F
  | .addReg _ _ => 0xF00F
  | .sub _ _ => 0xF00F
  | .shr _ _ => 0xF00F
  | .subn _ _ => 0xF00F
  | .shl _ _ => 0xF00F
  | .sneReg _ _ _ => if strict then 0xF00F else 0xF000
  | .ldI _ => 0xF000
  | .jpo _ => 0xF000
  | .rnd _ _ => 0xF000
  | .drw _ _ _ => 0xF000
  | .skp _ => 0xF0FF
  | .sknp _ => 0xF0FF
  | .ldVxDt _ => 0xF0FF
  | .ldVxK _ => 0xF0FF
  | .ldDtVx _ => 0xF0FF
  | .ldStVx _ => 0xF0FF
  | .addIVx _ => 0xF0FF
  | .ldFVx _ => 0xF0FF
  | .ldBVx _ => 0xF0FF
  | .ldMemVx _ => 0xF0FF
  | .ldVxMem _ => 0xF0FF

/-- A word matches the row of an instruction (R110). -/
def matchesRow (strict : Bool) (w : Word) (i : Instr) : Bool := w &&& i.mask strict == i.pattern

end Sys2Proof
end

