-- ==== Sys2Proof/Config.lean ====
section
/-! DEFINITION. What is fixed while the core runs (the parameters of spec/00_scope.md R7) and the free values (the
draws of R8). -/

namespace Sys2Proof.Config

/-- `FB_EDGE` (R333, D14): what the framebuffer does with pixels past an edge. -/
inductive FbEdge where
  | wrap
  | clip
  deriving DecidableEq, Repr

/-- `RETURN_RESUME` (R150, D7): where `RET` resumes. -/
inductive ReturnResume where
  | afterCall
  | atCall
  deriving DecidableEq, Repr

/-- `KEY_CLEAR` (R277, D16): which instructions clear `KEY`. -/
inductive KeyClear where
  | never
  | afterSkipRead
  deriving DecidableEq, Repr

/-- `FAIL_POLICY` (R313, D20): what follows a FAILED status. -/
inductive FailPolicy where
  | halt
  | skip
  deriving DecidableEq, Repr

/-- The parameters of R7 that the spec leaves to the implementation, taken as an argument (93_implementation_defined.md
U7, U10, U12, U15, U17). They stand in `State.cfg`, which no step writes (log 1); sizes have no bound
(logs 8 and 15). -/
structure Params where
  /-- `MEM_SIZE` (D1), in bytes. -/
  memSize : Nat
  /-- `STACK_DEPTH` (D6), in call-stack entries. -/
  stackDepth : Nat
  /-- `GLYPH_SIZE` (D13), in bytes. -/
  glyphSize : Nat
  /-- The parameter `FONT_BASE` (D13): what the loader writes into the register of that name (R351). -/
  fontBase : Word
  /-- `FONT_DATA` (D13): the font bytes the loader writes at `FONT_BASE` (R353). -/
  fontData : List Byte
  /-- `PROGRAM_START` (D22): the address of the first fetch. -/
  programStart : Word
  /-- `FB_WIDTH` (D14), in pixels. -/
  fbWidth : Nat
  /-- `FB_HEIGHT` (D14), in pixels. -/
  fbHeight : Nat
  /-- `FB_EDGE` (D14). -/
  fbEdge : FbEdge
  /-- `RETURN_RESUME` (D7). -/
  returnResume : ReturnResume
  /-- `KEY_CLEAR` (D16). -/
  keyClear : KeyClear
  /-- `STRICT_DECODE` (R114, D25). -/
  strictDecode : Bool
  /-- `FAIL_POLICY` (D20). -/
  failPolicy : FailPolicy
  deriving DecidableEq, Repr

/-- What the collaborators answer in one transaction: the "in" signals of R340 (memory and framebuffer answer from
the state itself). -/
structure Inputs where
  /-- `rand_byte`: the answer of `RandomByte()`, any byte (R335). -/
  randByte : Byte
  /-- `key_answer` where `key_valid` is 1: the answer of `KeyBlockingRead()`, taken only in `WAIT_KEY` (R334). -/
  keyAnswer : Option Byte
  /-- How many times `tick` occurs before the next step (R332). -/
  ticks : Nat
  /-- `key_state`: what the keyboard writes into `KEY` before the next step, where it writes (R334). -/
  keyWrite : Option Byte
  deriving DecidableEq, Repr

/-- FREE VALUE (log 2): the random byte of step `n`, with no law (R335). -/
opaque freeRandByte : Nat → Byte

/-- FREE VALUE (log 2): the keyboard's answer to a blocking read in step `n`, if it answers (R334). -/
opaque freeKeyAnswer : Nat → Option Byte

/-- FREE VALUE (log 2): the number of ticks after step `n`, zero or more (R332). -/
opaque freeTicks : Nat → Nat

/-- FREE VALUE (log 2): what the keyboard writes into `KEY` after step `n`, if it writes (R334). -/
opaque freeKeyWrite : Nat → Option Byte

/-- The free values of step `n`, together. -/
def freeInputs (n : Nat) : Inputs where
  randByte := freeRandByte n
  keyAnswer := freeKeyAnswer n
  ticks := freeTicks n
  keyWrite := freeKeyWrite n

end Sys2Proof.Config
end

