-- ==== Sys2Proof/Machine/Defaults.lean ====
section
/-! DEFINITION. The default values of the parameters (spec/00_scope.md R7), the font table of
spec/70_reset_and_hazards.md R353 among them. -/

namespace Sys2Proof

/-- The 80 font bytes of R353, glyph `g` at offset `5 g`: the value of `FONT_DATA` in R7. -/
def Config.fontData : List Byte :=
  [0xF0, 0x90, 0x90, 0x90, 0xF0,  0x20, 0x60, 0x20, 0x20, 0x70,
   0xF0, 0x10, 0xF0, 0x80, 0xF0,  0xF0, 0x10, 0xF0, 0x10, 0xF0] ++
  [0x90, 0x90, 0xF0, 0x10, 0x10,  0xF0, 0x80, 0xF0, 0x10, 0xF0,
   0xF0, 0x80, 0xF0, 0x90, 0xF0,  0xF0, 0x10, 0x20, 0x40, 0x40] ++
  [0xF0, 0x90, 0xF0, 0x90, 0xF0,  0xF0, 0x90, 0xF0, 0x10, 0xF0,
   0xF0, 0x90, 0xF0, 0x90, 0x90,  0xE0, 0x90, 0xE0, 0x90, 0xE0] ++
  [0xF0, 0x80, 0x80, 0x80, 0xF0,  0xE0, 0x90, 0x90, 0x90, 0xE0,
   0xF0, 0x80, 0xF0, 0x80, 0xF0,  0xF0, 0x80, 0xF0, 0x80, 0x80]

/-- The value of every parameter, as the table of R7 gives it. -/
def Config.Params.default : Config.Params where
  memSize := 4096
  stackDepth := 16
  glyphSize := 5
  fontBase := 0x000
  fontData := Config.fontData
  programStart := 0x200
  fbWidth := 64
  fbHeight := 32
  fbEdge := .wrap
  returnResume := .afterCall
  keyClear := .never
  strictDecode := false
  failPolicy := .halt

end Sys2Proof
end

