-- ==== Sys2Proof/Machine/Framebuffer.lean ====
section
/-! DEFINITION. The framebuffer collaborator as its contract gives it (spec/60_exceptions.md R333; log 9). -/

namespace Sys2Proof.Machine

/-- The grid of `FB_WIDTH` by `FB_HEIGHT` one-bit pixels, as the list of the pixels that are on, each by its column and
its row. -/
structure Framebuffer where
  on : List (Nat × Nat)
  deriving DecidableEq, Repr

/-- The order of the list: row by row from the top, each row from the left. -/
def before (p q : Nat × Nat) : Bool := p.2 < q.2 || (p.2 == q.2 && p.1 < q.1)

/-- The canonical form: the pixels in their order, with no repeats. -/
abbrev Framebuffer.wf (fb : Framebuffer) : Prop := fb.on.Pairwise fun p q => before p q = true

/-- Every pixel that is on is one of the grid's. -/
abbrev Framebuffer.within (fb : Framebuffer) (width height : Nat) : Prop :=
  ∀ p ∈ fb.on, p.1 < width ∧ p.2 < height

/-- Every pixel off. -/
def Framebuffer.blank : Framebuffer := ⟨[]⟩

/-- Whether the pixel in column `px` of row `py` is on. -/
def Framebuffer.pixel (fb : Framebuffer) (px py : Nat) : Bool := fb.on.contains (px, py)

/-- Adds a pixel that is not in the list, keeping the order. -/
def insertPixel : List (Nat × Nat) → Nat × Nat → List (Nat × Nat)
  | [], p => [p]
  | q :: rest, p => if before p q then p :: q :: rest else q :: insertPixel rest p

/-- `pixel(px, py) <- not pixel(px, py)`. -/
def Framebuffer.toggle (fb : Framebuffer) (px py : Nat) : Framebuffer :=
  if fb.pixel px py then ⟨fb.on.filter (· != (px, py))⟩ else ⟨insertPixel fb.on (px, py)⟩

/-- `FbClear()`: every pixel off (R333). -/
def Framebuffer.clear (_fb : Framebuffer) : Framebuffer := Framebuffer.blank

/-- The column and row of `Place(x + c, y + r)` before it is asked whether the grid has them (R333). -/
def landing (cfg : Config.Params) (x y c r : Nat) : Nat × Nat :=
  match cfg.fbEdge with
  | .wrap => ((x + c) % cfg.fbWidth, (y + r) % cfg.fbHeight)
  | .clip => (x % cfg.fbWidth + c, y % cfg.fbHeight + r)

/-- `Place(x + c, y + r)` (R333): the pixel a sprite bit lands on, if the grid has it. Under WRAP it always does, but for
a grid with no pixel (log 8). -/
def place (cfg : Config.Params) (x y c r : Nat) : Option (Nat × Nat) :=
  let p := landing cfg x y c r
  if p.1 < cfg.fbWidth ∧ p.2 < cfg.fbHeight then some p else none

/-- The pixels the set bits of one sprite row land on, bit 7 leftmost (R333). -/
def rowPixels (cfg : Config.Params) (x y r : Nat) (b : Byte) : List (Nat × Nat) :=
  (List.range 8).filterMap fun c => if b.getLsbD (7 - c) then place cfg x y c r else none

/-- The pixels the set bits of a sprite land on, row by row from row `r` (R333). -/
def spritePixels (cfg : Config.Params) (x y : Nat) : Nat → List Byte → List (Nat × Nat)
  | _, [] => []
  | r, b :: rest => rowPixels cfg x y r b ++ spritePixels cfg x y (r + 1) rest

/-- Toggles pixels one after another, noting whether one of them was on (R333). -/
def Framebuffer.toggleAll : Framebuffer → List (Nat × Nat) → Framebuffer × Bool
  | fb, [] => (fb, false)
  | fb, (px, py) :: rest =>
    let after := Framebuffer.toggleAll (fb.toggle px py) rest
    (after.1, fb.pixel px py || after.2)

/-- `FbRender(x, y, bytes, h)` with `h` the number of bytes: the new pixels and `collided` (R333). -/
def Framebuffer.render (fb : Framebuffer) (cfg : Config.Params) (x y : Byte) (bytes : List Byte) :
    Framebuffer × Bool :=
  fb.toggleAll (spritePixels cfg x.toNat y.toNat 0 bytes)

end Sys2Proof.Machine
end

