-- ==== Sys2Proof/Machine/Memory.lean ====
section
/-! DEFINITION. Memory as plain data (spec/20_memory.md R70, R74, R79): a list of the bytes that differ from what the
loader leaves (spec/70_reset_and_hazards.md R351, R353). -/

namespace Sys2Proof.Machine

/-- What an address that nothing has written reads as: the loader's byte, which is the font from `FONT_BASE` and 0
elsewhere (R47, R351, log 6). -/
def initialByte (cfg : Config.Params) (a : Nat) : Byte :=
  if a < cfg.fontBase.toNat then 0 else cfg.fontData.getD (a - cfg.fontBase.toNat) 0

/-- The bytes of memory that differ from `initialByte`, by address. -/
abbrev Memory := List Host.Cell

/-- The canonical form: addresses strictly rising, and no entry equal to what an unlisted address reads as. -/
abbrev Memory.wf (m : Memory) (cfg : Config.Params) : Prop :=
  m.Pairwise (fun c d => c.1 < d.1) ∧ ∀ c ∈ m, c.2 ≠ initialByte cfg c.1

/-- Every listed address exists in a memory of `size` bytes (R70). -/
abbrev Memory.within (m : Memory) (size : Nat) : Prop := ∀ c ∈ m, c.1 < size

/-- The byte at an address: the one last written there, else the loader's (R79). -/
def Memory.read (cfg : Config.Params) : Memory → Nat → Byte
  | [], a => initialByte cfg a
  | (k, b) :: rest, a => if k = a then b else Memory.read cfg rest a

/-- Adds an entry for an address that has none, keeping the addresses rising. -/
def Memory.insert : Memory → Nat → Byte → Memory
  | [], a, b => [(a, b)]
  | (k, c) :: rest, a, b => if a < k then (a, b) :: (k, c) :: rest else (k, c) :: Memory.insert rest a b

/-- Writes a byte (R79); writing what an unlisted address reads as leaves no entry. -/
def Memory.write (cfg : Config.Params) (m : Memory) (a : Nat) (b : Byte) : Memory :=
  let others := m.filter (fun c => c.1 != a)
  if b = initialByte cfg a then others else Memory.insert others a b

/-- Writes bytes at consecutive rising addresses, one at a time (R74). -/
def Memory.writeBytes (cfg : Config.Params) : Memory → Nat → List Byte → Memory
  | m, _, [] => m
  | m, a, b :: bs => Memory.writeBytes cfg (m.write cfg a b) (a + 1) bs

/-- Reads `n` bytes at consecutive rising addresses (R74). -/
def Memory.readBytes (cfg : Config.Params) (m : Memory) : Nat → Nat → List Byte
  | _, 0 => []
  | a, n + 1 => m.read cfg a :: Memory.readBytes cfg m (a + 1) n

end Sys2Proof.Machine
end

