-- ==== Sys2Proof/Machine/State.lean ====
section
/-! DEFINITION. The machine's state (spec/10_state.md), the ways a step can stop, and the state after reset (R47). -/

namespace Sys2Proof.Machine

/-- The phase of the program-counter update FSM (R45). -/
inductive Phase where
  /-- The next step fetches at `PC`. -/
  | run
  /-- A `LD_VX_K` at `PC` is blocked and will write `V[x]`. -/
  | waitKey (x : Nibble)
  /-- A FAILED status was taken under `FAIL_POLICY = HALT`. -/
  | halted
  deriving DecidableEq, Repr

/-- The values of the `STATUS` register (R44). -/
inductive Status where
  | advance
  | alreadySet
  | failed
  deriving DecidableEq, Repr

/-- The values of the `FAULT_CAUSE` register (R44, R311). -/
inductive FaultCause where
  | none
  | unimplemented
  | stackOverflow
  | stackUnderflow
  | memRange
  | fetchRange
  deriving DecidableEq, Repr

/-- The bits of `STATUS` (R44); the value 3 is never produced. -/
def Status.code : Status → BitVec 2
  | .advance => 0
  | .alreadySet => 1
  | .failed => 2

/-- The bits of `FAULT_CAUSE` (R44); the values 6 and 7 are never produced. -/
def FaultCause.code : FaultCause → BitVec 3
  | .none => 0
  | .unimplemented => 1
  | .stackOverflow => 2
  | .stackUnderflow => 3
  | .memRange => 4
  | .fetchRange => 5

/-- Everything the spec gives the machine (R30 to R46), the framebuffer (R333), and three fields of the model's own:
`cfg` (log 1), `inputs` and `draws` (log 2). -/
structure State where
  /-- The parameters of R7. No step writes them. -/
  cfg : Config.Params
  /-- `V[0]` to `V[15]`; `V[15]` is VF (R30, R31). -/
  v : Vector Byte 16
  /-- `I` (R35). -/
  i : Word
  /-- `PC` (R33, R34). -/
  pc : Word
  /-- `SP`, the number of call-stack entries in use, from 0 to `STACK_DEPTH` (R36, log 13). -/
  sp : Nat
  /-- `Stack[0]` to `Stack[STACK_DEPTH - 1]` (R36, log 13). -/
  stack : List Word
  /-- `DT` (R38). -/
  dt : Byte
  /-- `ST` (R39). -/
  st : Byte
  /-- `KEY`, 0 for no key (R40). -/
  key : Byte
  /-- `FONT_BASE` (R41). -/
  fontBase : Word
  /-- Memory (R42). -/
  mem : Memory
  /-- The display collaborator's pixels (R43, R333). -/
  fb : Framebuffer
  /-- The phase (R45). -/
  phase : Phase
  /-- `STATUS` (R44). -/
  status : Status
  /-- `FAULT_CAUSE` (R44). -/
  faultCause : FaultCause
  /-- `FAULT_INFO` (R44). -/
  faultInfo : Word
  /-- What the collaborators answer in the coming steps, as far as it is fixed, the next step's first; past its end
  they answer the free values (R8, log 2). -/
  inputs : List Config.Inputs
  /-- How many steps were taken: the index of the free values (log 2). -/
  draws : Nat
  deriving DecidableEq, Repr

/-- How a step can stop the machine. -/
inductive Fault where
  /-- Raised by `step` alone, when the phase is `HALTED`: the core has no further step, and a halted core is a fault
  outcome, never a normal end (R313). It carries the fault record. Safe: the core stops there too. -/
  | halted (cause : FaultCause) (info : Word)
  deriving DecidableEq, Repr

/-- How an instruction can be without a meaning. -/
inductive Refusal where
  /-- Raised by an arm of `exec` whose instruction has no meaning yet; no arm does so now. Safe: the model stops where
  the core goes on. -/
  | notModelled (mnemonic : String)
  deriving DecidableEq, Repr

/-- The state in which the first step fetches, for given parameters: every element as R47 gives it (R350), memory as
the loader leaves it with no program image (R351, log 6), `Stack` zero (log 5), the framebuffer off (log 9). -/
def State.resetWith (cfg : Config.Params) : State where
  cfg := cfg
  v := Vector.replicate 16 0
  i := 0
  pc := cfg.programStart
  sp := 0
  stack := List.replicate cfg.stackDepth 0
  dt := 0
  st := 0
  key := 0
  fontBase := cfg.fontBase
  mem := []
  fb := Framebuffer.blank
  phase := .run
  status := .advance
  faultCause := .none
  faultInfo := 0
  inputs := []
  draws := 0

/-- The machine right after reset, with the default parameters (R7, R47). -/
def State.reset : State := State.resetWith Config.Params.default

end Sys2Proof.Machine
end

