-- ==== Sys2Proof/Machine/Ops.lean ====
section
/-! DEFINITION. The named operations over the state: memory access and its checks, the call stack, the
program-counter update, and taking a fault, which is the machine's one exception. -/

namespace Sys2Proof.Machine

/-- What a step answers. -/
abbrev Result := Host.Outcome State Fault Refusal

/-- The flag register VF is `V[15]` (R31). -/
def vf : Nibble := 15

/-- Writes `PC`. -/
def State.setPc (s : State) (a : Word) : State := { s with pc := a }

/-- Writes `I`; the value is never range-checked (R35). -/
def State.setI (s : State) (a : Word) : State := { s with i := a }

/-- Writes `DT` (R38). -/
def State.setDt (s : State) (b : Byte) : State := { s with dt := b }

/-- Writes `ST` (R39). -/
def State.setSt (s : State) (b : Byte) : State := { s with st := b }

/-- Writes `KEY` (R40). -/
def State.setKey (s : State) (b : Byte) : State := { s with key := b }

/-- Replaces the framebuffer's pixels (R43). -/
def State.setFb (s : State) (fb : Framebuffer) : State := { s with fb := fb }

/-- Enters a phase (R45). -/
def State.setPhase (s : State) (p : Phase) : State := { s with phase := p }

/-- `MemRead(addr, 1)` (R12, R74). -/
def State.memRead (s : State) (a : Nat) : Byte := s.mem.read s.cfg a

/-- `MemWrite(addr, 1, v)` (R12, R74). -/
def State.memWrite (s : State) (a : Nat) (b : Byte) : State := { s with mem := s.mem.write s.cfg a b }

/-- What the collaborators answer in this step (R8, R340): the first of `inputs`, else the free values (log 2). -/
def State.currentInputs (s : State) : Config.Inputs := s.inputs.head?.getD (Config.freeInputs s.draws)

/-- `RandomByte()` (R14, R335). -/
def State.randomByte (s : State) : Byte := s.currentInputs.randByte

/-- `status <- ADVANCE` and `UpdatePC` (R142): `PC` moves on by one instruction width, modulo 2^16. -/
def State.advance (s : State) : State := { s with pc := s.pc + 2, status := .advance }

/-- `status <- ALREADY_SET` and `UpdatePC` (R142): `PC` keeps what the instruction's rule wrote. -/
def State.alreadySet (s : State) : State := { s with status := .alreadySet }

/-- Where `PC` stands after a fault (R312, R313). -/
def pcAfterFault (policy : Config.FailPolicy) (pc : Word) : Word :=
  match policy with
  | .halt => pc
  | .skip => pc + 2

/-- The phase after a fault (R313). -/
def phaseAfterFault (policy : Config.FailPolicy) (p : Phase) : Phase :=
  match policy with
  | .halt => .halted
  | .skip => p

/-- `raise Fault(cause, info)` (R13, R310, R312, R313): the fault record is written, then `FAIL_POLICY` is applied;
nothing else changes. There is no return from a fault (R317). -/
def State.raise (s : State) (cause : FaultCause) (info : Word) : State :=
  { s with
    status := .failed
    faultCause := cause
    faultInfo := info
    pc := pcAfterFault s.cfg.failPolicy s.pc
    phase := phaseAfterFault s.cfg.failPolicy s.phase }

/-- `CheckAddr(addr)` passes: the address, an exact integer, exists (R77). -/
def State.addrOk (s : State) (a : Nat) : Bool := a < s.cfg.memSize

/-- `CheckAddr(I + k)` for `k` from 0 to `n - 1`, with no wrap at 2^16 (R76, R77). -/
def State.rangeOk (s : State) (n : Nat) : Bool := (List.range n).all fun k => s.addrOk (s.i.toNat + k)

/-- An instruction that reaches the `n` bytes from `I`: every address is checked before any effect (R78), and a
failing check faults with `MEM_RANGE`, `FAULT_INFO = I` (R77). -/
def State.guardRange (s : State) (n : Nat) (after : State) : Result :=
  if s.rangeOk n then .next after else .next (s.raise .memRange s.i)

/-- `FetchWord(PC)` (R72): `none` where a byte of the word lies outside memory. -/
def State.fetchWord (s : State) : Option Word :=
  if s.pc.toNat + 1 < s.cfg.memSize then
    some (wordOfBytes (s.memRead s.pc.toNat) (s.memRead (s.pc.toNat + 1)))
  else none

/-- `Stack[j]` (R11, R36). The stack has `STACK_DEPTH` entries in every state a run reaches (`State.Inv`). -/
def State.entry (s : State) (j : Nat) : Word := s.stack.getD j 0

/-- `Push(v)` (R37): `none` where the stack is full. -/
def State.push (s : State) (a : Word) : Option State :=
  if s.sp < s.cfg.stackDepth then some { s with stack := s.stack.set s.sp a, sp := s.sp + 1 } else none

/-- `Pop()` (R37): the popped entry and the state with one entry fewer; `none` where the stack is empty. -/
def State.pop (s : State) : Option (Word × State) :=
  if 0 < s.sp then some (s.entry (s.sp - 1), { s with sp := s.sp - 1 }) else none

end Sys2Proof.Machine
end

