-- ==== Sys2Proof/Machine/Operands.lean ====
section
/-! DEFINITION. The operand forms (spec/30_encoding.md R102): registers, immediates, addresses, and the forms built on
them that several instructions share. -/

namespace Sys2Proof.Machine

/-- A register operand `V[x]`, any of the 16 (R30, R102). -/
def State.readV (s : State) (x : Nibble) : Byte := s.v[x.toNat]'x.isLt

/-- `V[x] <- b` (R11, R30); `x = 15` writes VF (R31). -/
def State.writeV (s : State) (x : Nibble) (b : Byte) : State := { s with v := s.v.set x.toNat b x.isLt }

/-- An address operand, `zext_16(nnn)` (R102). -/
def target (nnn : Addr12) : Word := nnn.setWidth 16

/-- A register's byte widened to an address, `zext_16` (R10). -/
def widen (b : Byte) : Word := b.setWidth 16

/-- A conditional skip (R143): taken, `PC <- PC + 4` and ALREADY_SET; not taken, ADVANCE. -/
def State.skipIf (s : State) (c : Bool) : State :=
  if c then (s.setPc (s.pc + 4)).alreadySet else s.advance

/-- A result written to `V[x]`, no flag, then ADVANCE (R183). -/
def State.result (s : State) (x : Nibble) (b : Byte) : State := (s.writeV x b).advance

/-- `KEY` after `SKP` or `SKNP` has compared it (R277). -/
def keyAfterSkipRead (policy : Config.KeyClear) (key : Byte) : Byte :=
  match policy with
  | .never => key
  | .afterSkipRead => 0

/-- The glyph address (R234): `(FONT_BASE + v * GLYPH_SIZE) mod 2^16` for `v` up to 15, else `I` unchanged. -/
def State.glyphAddr (s : State) (b : Byte) : Word :=
  if b.toNat ≤ 15 then BitVec.ofNat 16 (s.fontBase.toNat + b.toNat * s.cfg.glyphSize) else s.i

/-- The ones digit of a byte (R236). -/
def ones (b : Byte) : Byte := BitVec.ofNat 8 (b.toNat % 10)

/-- The tens digit of a byte (R236). -/
def tens (b : Byte) : Byte := BitVec.ofNat 8 (b.toNat / 10 % 10)

/-- The hundreds digit of a byte (R236). -/
def hundreds (b : Byte) : Byte := BitVec.ofNat 8 (b.toNat / 100)

end Sys2Proof.Machine
end

