-- ==== Sys2Proof/Machine/Flags.lean ====
section
/-! DEFINITION. The flag generator (spec/41_arithmetic_logic.md R180 to R182). -/

namespace Sys2Proof.Machine

/-- A flag as the whole byte of VF: 0x00 or 0x01 (R31). -/
def flagByte (c : Bool) : Byte := if c then 1 else 0

/-- Carry out of bit 7: `a + b > 255` (R181). -/
def addFlag (a b : Byte) : Bool := 255 < a.toNat + b.toNat

/-- No borrow in `a - b`: `a >= b` (R181). -/
def subFlag (a b : Byte) : Bool := b.toNat ≤ a.toNat

/-- The bit a right shift by one shifts out, `a[0]` (R181). -/
def shrFlag (a : Byte) : Bool := a.getLsbD 0

/-- The bit a left shift by one shifts out, `a[7]` (R181). -/
def shlFlag (a : Byte) : Bool := a.getLsbD 7

/-- Writes VF as a flag (R31, R32). -/
def State.writeFlag (s : State) (c : Bool) : State := s.writeV vf (flagByte c)

/-- The end of a flag-writing ALU instruction (R182): the result goes to `V[x]`, then the flag to `V[15]`, last. -/
def State.resultWithFlag (s : State) (x : Nibble) (b : Byte) (c : Bool) : State :=
  ((s.writeV x b).writeFlag c).advance

end Sys2Proof.Machine
end

