-- ==== Sys2Proof/Machine/Alu.lean ====
section
/-! DEFINITION. The ALU family (spec/41_arithmetic_logic.md R190 to R201). Byte arithmetic is modulo 256 (R180). -/

namespace Sys2Proof.Machine

/-- `LD_IMM Vx, kk` (R190). -/
def execLdImm (x : Nibble) (kk : Byte) (s : State) : Result := .next (s.result x kk)

/-- `ADD_IMM Vx, kk` (R191): no flag. -/
def execAddImm (x : Nibble) (kk : Byte) (s : State) : Result := .next (s.result x (s.readV x + kk))

/-- `LD_REG Vx, Vy` (R192). -/
def execLdReg (x y : Nibble) (s : State) : Result := .next (s.result x (s.readV y))

/-- `OR Vx, Vy` (R193). -/
def execOr (x y : Nibble) (s : State) : Result := .next (s.result x (s.readV x ||| s.readV y))

/-- `AND Vx, Vy` (R194). -/
def execAnd (x y : Nibble) (s : State) : Result := .next (s.result x (s.readV x &&& s.readV y))

/-- `XOR Vx, Vy` (R195). -/
def execXor (x y : Nibble) (s : State) : Result := .next (s.result x (s.readV x ^^^ s.readV y))

/-- `ADD_REG Vx, Vy` (R196). -/
def execAddReg (x y : Nibble) (s : State) : Result :=
  let a := s.readV x
  let b := s.readV y
  .next (s.resultWithFlag x (a + b) (addFlag a b))

/-- `SUB Vx, Vy` (R197). -/
def execSub (x y : Nibble) (s : State) : Result :=
  let a := s.readV x
  let b := s.readV y
  .next (s.resultWithFlag x (a - b) (subFlag a b))

/-- `SHR Vx, Vy` (R198): `V[y]` is not read. -/
def execShr (x _y : Nibble) (s : State) : Result :=
  let a := s.readV x
  .next (s.resultWithFlag x (a >>> 1) (shrFlag a))

/-- `SUBN Vx, Vy` (R199). -/
def execSubn (x y : Nibble) (s : State) : Result :=
  let a := s.readV x
  let b := s.readV y
  .next (s.resultWithFlag x (b - a) (subFlag b a))

/-- `SHL Vx, Vy` (R200): `V[y]` is not read. -/
def execShl (x _y : Nibble) (s : State) : Result :=
  let a := s.readV x
  .next (s.resultWithFlag x (a <<< 1) (shlFlag a))

/-- `RND Vx, kk` (R201): a random byte under a mask. -/
def execRnd (x : Nibble) (kk : Byte) (s : State) : Result := .next (s.result x (s.randomByte &&& kk))

end Sys2Proof.Machine
end

