-- ==== Sys2Proof/Machine/Control.lean ====
section
/-! DEFINITION. The control-flow family (spec/40_control_flow.md R150 to R157). -/

namespace Sys2Proof.Machine

/-- Where `RET` resumes, given the popped entry (R150). -/
def resumeAt (policy : Config.ReturnResume) (t : Word) : Word :=
  match policy with
  | .afterCall => t + 2
  | .atCall => t

/-- `RET` (R150). -/
def execRet (s : State) : Result :=
  match s.pop with
  | some (t, s') => .next (s'.setPc (resumeAt s.cfg.returnResume t)).alreadySet
  | none => .next (s.raise .stackUnderflow s.pc)

/-- `JP nnn` (R151). -/
def execJp (nnn : Addr12) (s : State) : Result := .next (s.setPc (target nnn)).alreadySet

/-- `CALL nnn` (R152): pushes its own address. -/
def execCall (nnn : Addr12) (s : State) : Result :=
  match s.push s.pc with
  | some s' => .next (s'.setPc (target nnn)).alreadySet
  | none => .next (s.raise .stackOverflow s.pc)

/-- `JPO nnn` (R153): sets `I` to `nnn + V[0]` and does not jump. -/
def execJpo (nnn : Addr12) (s : State) : Result := .next (s.setI (target nnn + widen (s.readV 0))).advance

/-- `SE_IMM Vx, kk` (R154). -/
def execSeImm (x : Nibble) (kk : Byte) (s : State) : Result := .next (s.skipIf (s.readV x == kk))

/-- `SNE_IMM Vx, kk` (R155). -/
def execSneImm (x : Nibble) (kk : Byte) (s : State) : Result := .next (s.skipIf (s.readV x != kk))

/-- `SE_REG Vx, Vy` (R156). -/
def execSeReg (x y : Nibble) (s : State) : Result := .next (s.skipIf (s.readV x == s.readV y))

/-- `SNE_REG Vx, Vy` (R157). -/
def execSneReg (x y : Nibble) (s : State) : Result := .next (s.skipIf (s.readV x != s.readV y))

end Sys2Proof.Machine
end

