-- ==== Sys2Proof/Machine/Display.lean ====
section
/-! DEFINITION. The display, keyboard and timer family (spec/43_display_timer_keyboard.md R270 to R285). -/

namespace Sys2Proof.Machine

/-- `CLS` (R270). -/
def execCls (s : State) : Result := .next (s.setFb s.fb.clear).advance

/-- The bytes of an `n`-row sprite: memory at `I` (R272). -/
def State.sprite (s : State) (n : Nibble) : List Byte := s.mem.readBytes s.cfg s.i.toNat n.toNat

/-- `DRW Vx, Vy, n` (R272): the coordinates are read before VF is written. -/
def execDrw (x y n : Nibble) (s : State) : Result :=
  let drawn := s.fb.render s.cfg (s.readV x) (s.readV y) (s.sprite n)
  s.guardRange n.toNat ((s.setFb drawn.1).writeFlag drawn.2).advance

/-- `SKP Vx` (R275). -/
def execSkp (x : Nibble) (s : State) : Result :=
  .next ((s.setKey (keyAfterSkipRead s.cfg.keyClear s.key)).skipIf (s.readV x == s.key))

/-- `SKNP Vx` (R276). -/
def execSknp (x : Nibble) (s : State) : Result :=
  .next ((s.setKey (keyAfterSkipRead s.cfg.keyClear s.key)).skipIf (s.readV x != s.key))

/-- `LD_VX_K Vx` (R280): with no key pressed the core waits, `PC` and everything but the phase unchanged (log 11). -/
def execLdVxK (x : Nibble) (s : State) : Result :=
  if s.key = 0 then .next (s.setPhase (.waitKey x)) else .next (s.result x s.key)

/-- `LD_VX_DT Vx` (R283). -/
def execLdVxDt (x : Nibble) (s : State) : Result := .next (s.result x s.dt)

/-- `LD_DT_VX Vx` (R284). -/
def execLdDtVx (x : Nibble) (s : State) : Result := .next (s.setDt (s.readV x)).advance

/-- `LD_ST_VX Vx` (R285). -/
def execLdStVx (x : Nibble) (s : State) : Result := .next (s.setSt (s.readV x)).advance

end Sys2Proof.Machine
end

