-- ==== Sys2Proof/Machine/Index.lean ====
section
/-! DEFINITION. The index register, memory, BCD and font family (spec/42_memory_bcd_font.md R230 to R240). -/

namespace Sys2Proof.Machine

/-- `LD_I nnn` (R232). -/
def execLdI (nnn : Addr12) (s : State) : Result := .next (s.setI (target nnn)).advance

/-- `ADD_I_VX Vx` (R233): modulo 2^16, no flag. -/
def execAddIVx (x : Nibble) (s : State) : Result := .next (s.setI (s.i + widen (s.readV x))).advance

/-- `LD_F_VX Vx` (R234). -/
def execLdFVx (x : Nibble) (s : State) : Result := .next (s.setI (s.glyphAddr (s.readV x))).advance

/-- `LD_B_VX Vx` (R236): the three decimal digits at `I`, ones digit first. -/
def execLdBVx (x : Nibble) (s : State) : Result :=
  let b := s.readV x
  let a := s.i.toNat
  s.guardRange 3 (((s.memWrite a (ones b)).memWrite (a + 1) (tens b)).memWrite (a + 2) (hundreds b)).advance

/-- `LD_MEM_VX Vx` (R238): `V[x]` alone, `I` unchanged. -/
def execLdMemVx (x : Nibble) (s : State) : Result :=
  s.guardRange 1 (s.memWrite s.i.toNat (s.readV x)).advance

/-- `LD_VX_MEM Vx` (R240): `V[x]` alone, `I` unchanged. -/
def execLdVxMem (x : Nibble) (s : State) : Result :=
  s.guardRange 1 (s.result x (s.memRead s.i.toNat))

end Sys2Proof.Machine
end

