-- ==== Sys2Proof/Machine/Environment.lean ====
section
/-! DEFINITION. The agents around the core (spec/60_exceptions.md R330 to R336): the tick driver and the keyboard, which
act between core steps, the keyboard's answer to a blocking read, and the loader. -/

namespace Sys2Proof.Machine

/-- One tick of one timer (R332): it stops at 0. -/
def tickTimer (b : Byte) : Byte := if b = 0 then 0 else b - 1

/-- `n` ticks of one timer (R332). -/
def ticksTimer : Nat → Byte → Byte
  | 0, b => b
  | n + 1, b => ticksTimer n (tickTimer b)

/-- `Tick()` (R332): both timers are lowered by one tick. -/
def State.tick (s : State) : State := { s with dt := tickTimer s.dt, st := tickTimer s.st }

/-- What happens after a core step and before the next (R80, R332, R334): the ticks, the keyboard's write of `KEY`, and
the turn to the next step's answers. After a fault that halts the core there is no next step (log 3). -/
def State.between (s : State) (answers : Config.Inputs) : State :=
  if s.phase = .halted then s
  else
    { s with
      dt := ticksTimer answers.ticks s.dt
      st := ticksTimer answers.ticks s.st
      key := answers.keyWrite.getD s.key
      inputs := s.inputs.tail
      draws := s.draws + 1 }

/-- The completion of `LD_VX_K` with the key `k` (R281). -/
def State.keyArrives (s : State) (x : Nibble) (k : Byte) : State :=
  (((s.setKey k).writeV x k).setPhase .run).advance

/-- A step in phase `WAIT_KEY(x)` (R281): with no answer from the keyboard the core holds (log 12); 0 is no key, so it
is no answer (R334, log 10). -/
def State.keyWaitStep (s : State) (x : Nibble) : State :=
  match s.currentInputs.keyAnswer with
  | some k => if k = 0 then s else s.keyArrives x k
  | none => s

/-- The loader (R351): for a program image, the state in which the first step fetches; it refuses an image that does
not fit between `PROGRAM_START` and the end of memory. DESIGN CHOICE (log 21): with `PROGRAM_START` above `MEM_SIZE`,
where the spec does not say what the loader does, the room counts as 0. -/
def State.load (cfg : Config.Params) (image : List Byte) : Option State :=
  if image.length ≤ cfg.memSize - cfg.programStart.toNat then
    some { State.resetWith cfg with mem := Memory.writeBytes cfg [] cfg.programStart.toNat image }
  else none

end Sys2Proof.Machine
end

