-- ==== Sys2Proof/Machine/Cycle.lean ====
section
/-! DEFINITION. The instruction cycle of the core (spec/40_control_flow.md R140, R141). -/

namespace Sys2Proof.Machine

/-- The core's own step, by phase (R45): `Step()` in `RUN` (R140), the key wait in `WAIT_KEY` (R281), none in `HALTED`
(R313). The checks run in the order of R314. -/
def coreStep (s : State) : Host.Outcome State Fault Refusal :=
  match s.phase with
  | .halted => .fault (.halted s.faultCause s.faultInfo)
  | .waitKey x => .next (s.keyWaitStep x)
  | .run =>
    match s.fetchWord with
    | none => .next (s.raise .fetchRange s.pc)
    | some w =>
      match decodeWord s.cfg.strictDecode w with
      | .error _ => .next (s.raise .unimplemented w)
      | .ok i => exec i s

end Sys2Proof.Machine
end

