-- ==== Sys2Proof/Machine/Step.lean ====
section
/-! DEFINITION. One step of the machine (spec/40_control_flow.md R140, spec/60_exceptions.md R330). -/

namespace Sys2Proof.Machine

/-- One step: the core's step, then what the other agents do before the next one (R80, R330, log 3). -/
def step (s : State) : Host.Outcome State Fault Refusal :=
  match coreStep s with
  | .next t => .next (t.between s.currentInputs)
  | .fault r => .fault r
  | .refused r => .refused r

/-- The opcode-table word `w` placed at `PC`, high byte first (R72), and the phase in which a step fetches. -/
def State.withFetchWord (s : State) (nbits w : Nat) : State :=
  { s with mem := s.mem.writeBytes s.cfg s.pc.toNat (tableBytes nbits w), phase := .run }

end Sys2Proof.Machine
end

