-- ==== Sys2Proof/Machine/Assembler.lean ====
section
/-! DEFINITION. The assembler syntax (spec/30_encoding.md R115, R116; log 19). No behaviour of the core
depends on it. -/

namespace Sys2Proof.Machine

/-- The words an instruction's line begins with: the "assembler syntax" column of R110. -/
inductive Op where
  | cls | ret | jp | call | se | sne | ld | add | or | and
  | xor | sub | shr | subn | shl | jpo | rnd | drw | skp | sknp
  deriving DecidableEq, Repr

/-- The operands of a line (R115). -/
inductive Operand where
  | reg (x : Nibble)
  | num (v : Nat)
  | label (name : List Char)
  | i
  | dt
  | st
  | k
  | f
  | b
  | memAtI
  deriving DecidableEq, Repr

/-- How an instruction is spelled: the "assembler syntax" column of R110. -/
def spelling : Instr → Op × List Operand
  | .cls _ => (.cls, [])
  | .ret _ => (.ret, [])
  | .jp nnn => (.jp, [.num nnn.toNat])
  | .call nnn => (.call, [.num nnn.toNat])
  | .seImm x kk => (.se, [.reg x, .num kk.toNat])
  | .sneImm x kk => (.sne, [.reg x, .num kk.toNat])
  | .seReg x y _ => (.se, [.reg x, .reg y])
  | .ldImm x kk => (.ld, [.reg x, .num kk.toNat])
  | .addImm x kk => (.add, [.reg x, .num kk.toNat])
  | .ldReg x y => (.ld, [.reg x, .reg y])
  | .or x y => (.or, [.reg x, .reg y])
  | .and x y => (.and, [.reg x, .reg y])
  | .xor x y => (.xor, [.reg x, .reg y])
  | .addReg x y => (.add, [.reg x, .reg y])
  | .sub x y => (.sub, [.reg x, .reg y])
  | .shr x y => (.shr, [.reg x, .reg y])
  | .subn x y => (.subn, [.reg x, .reg y])
  | .shl x y => (.shl, [.reg x, .reg y])
  | .sneReg x y _ => (.sne, [.reg x, .reg y])
  | .ldI nnn => (.ld, [.i, .num nnn.toNat])
  | .jpo nnn => (.jpo, [.num nnn.toNat])
  | .rnd x kk => (.rnd, [.reg x, .num kk.toNat])
  | .drw x y n => (.drw, [.reg x, .reg y, .num n.toNat])
  | .skp x => (.skp, [.reg x])
  | .sknp x => (.sknp, [.reg x])
  | .ldVxDt x => (.ld, [.reg x, .dt])
  | .ldVxK x => (.ld, [.reg x, .k])
  | .ldDtVx x => (.ld, [.dt, .reg x])
  | .ldStVx x => (.ld, [.st, .reg x])
  | .addIVx x => (.add, [.i, .reg x])
  | .ldFVx x => (.ld, [.f, .reg x])
  | .ldBVx x => (.ld, [.b, .reg x])
  | .ldMemVx x => (.ld, [.memAtI, .reg x])
  | .ldVxMem x => (.ld, [.reg x, .memAtI])

/-- A number as a field of `width` bits; a number outside the field's range is rejected (R115). -/
def fieldOf (width v : Nat) : Option (BitVec width) := if v < 2 ^ width then some (BitVec.ofNat width v) else none

/-- No operand. -/
def noOperand (i : Instr) : List Operand → Option Instr
  | [] => some i
  | _ => none

/-- `nnn`. -/
def addressForm (f : Addr12 → Instr) : List Operand → Option Instr
  | [.num a] => (fieldOf 12 a).map f
  | _ => none

/-- `Vx`. -/
def registerForm (f : Nibble → Instr) : List Operand → Option Instr
  | [.reg x] => some (f x)
  | _ => none

/-- `Vx, Vy`. -/
def registersForm (f : Nibble → Nibble → Instr) : List Operand → Option Instr
  | [.reg x, .reg y] => some (f x y)
  | _ => none

/-- `Vx, Vy`, or `Vx` alone, which encodes `y = 0` (R115). -/
def shiftForm (f : Nibble → Nibble → Instr) : List Operand → Option Instr
  | [.reg x, .reg y] => some (f x y)
  | [.reg x] => some (f x 0)
  | _ => none

/-- `Vx, kk` or `Vx, Vy`. -/
def compareForm (f : Nibble → Byte → Instr) (g : Nibble → Nibble → Instr) : List Operand → Option Instr
  | [.reg x, .num v] => (fieldOf 8 v).map (f x)
  | [.reg x, .reg y] => some (g x y)
  | _ => none

/-- The forms of `ADD`. -/
def addForm : List Operand → Option Instr
  | [.reg x, .num v] => (fieldOf 8 v).map (.addImm x)
  | [.reg x, .reg y] => some (.addReg x y)
  | [.i, .reg x] => some (.addIVx x)
  | _ => none

/-- The forms of `LD` that write a general register. -/
def loadRegister (x : Nibble) : Operand → Option Instr
  | .num v => (fieldOf 8 v).map (.ldImm x)
  | .reg y => some (.ldReg x y)
  | .dt => some (.ldVxDt x)
  | .k => some (.ldVxK x)
  | .memAtI => some (.ldVxMem x)
  | _ => none

/-- The forms of `LD` that read a general register and write something else. -/
def loadOther (x : Nibble) : Operand → Option Instr
  | .dt => some (.ldDtVx x)
  | .st => some (.ldStVx x)
  | .f => some (.ldFVx x)
  | .b => some (.ldBVx x)
  | .memAtI => some (.ldMemVx x)
  | _ => none

/-- The forms of `LD`. -/
def loadForm : List Operand → Option Instr
  | [.i, .num a] => (fieldOf 12 a).map .ldI
  | [.reg x, o] => loadRegister x o
  | [o, .reg x] => loadOther x o
  | _ => none

/-- `RND`'s operands, `Vx, kk`. -/
def randomForm : List Operand → Option Instr
  | [.reg x, .num v] => (fieldOf 8 v).map (.rnd x)
  | _ => none

/-- `DRW`'s operands, `Vx, Vy, n`. -/
def drawForm : List Operand → Option Instr
  | [.reg x, .reg y, .num v] => (fieldOf 4 v).map (.drw x y)
  | _ => none

/-- The instruction a line spells, its labels already replaced by their addresses (R115, R116). -/
def build (op : Op) (operands : List Operand) : Option Instr :=
  match op with
  | .cls => noOperand (.cls 0) operands
  | .ret => noOperand (.ret 0) operands
  | .jp => addressForm .jp operands
  | .call => addressForm .call operands
  | .se => compareForm .seImm (fun x y => .seReg x y 0) operands
  | .sne => compareForm .sneImm (fun x y => .sneReg x y 0) operands
  | .ld => loadForm operands
  | .add => addForm operands
  | .or => registersForm .or operands
  | .and => registersForm .and operands
  | .xor => registersForm .xor operands
  | .sub => registersForm .sub operands
  | .shr => shiftForm .shr operands
  | .subn => registersForm .subn operands
  | .shl => shiftForm .shl operands
  | .jpo => addressForm .jpo operands
  | .rnd => randomForm operands
  | .drw => drawForm operands
  | .skp => registerForm .skp operands
  | .sknp => registerForm .sknp operands

/-! ### The text of a line -/

/-- A mnemonic as text (R110). -/
def Op.name : Op → List Char
  | .cls => ['C', 'L', 'S']
  | .ret => ['R', 'E', 'T']
  | .jp => ['J', 'P']
  | .call => ['C', 'A', 'L', 'L']
  | .se => ['S', 'E']
  | .sne => ['S', 'N', 'E']
  | .ld => ['L', 'D']
  | .add => ['A', 'D', 'D']
  | .or => ['O', 'R']
  | .and => ['A', 'N', 'D']
  | .xor => ['X', 'O', 'R']
  | .sub => ['S', 'U', 'B']
  | .shr => ['S', 'H', 'R']
  | .subn => ['S', 'U', 'B', 'N']
  | .shl => ['S', 'H', 'L']
  | .jpo => ['J', 'P', 'O']
  | .rnd => ['R', 'N', 'D']
  | .drw => ['D', 'R', 'W']
  | .skp => ['S', 'K', 'P']
  | .sknp => ['S', 'K', 'N', 'P']

/-- Every mnemonic. -/
def Op.all : List Op :=
  [.cls, .ret, .jp, .call, .se, .sne, .ld, .add, .or, .and,
   .xor, .sub, .shr, .subn, .shl, .jpo, .rnd, .drw, .skp, .sknp]

/-- The value of a digit, decimal or hex. -/
def digitOf (c : Char) : Option Nat :=
  let v := c.toNat
  if 48 ≤ v ∧ v ≤ 57 then some (v - 48)
  else if 65 ≤ v ∧ v ≤ 70 then some (v - 55)
  else if 97 ≤ v ∧ v ≤ 102 then some (v - 87)
  else none

/-- The value of a row of digits, most significant first, in a base. -/
def numeral (base : Nat) : Nat → List Char → Option Nat
  | acc, [] => some acc
  | acc, c :: cs =>
    match digitOf c with
    | some d => if d < base then numeral base (acc * base + d) cs else none
    | none => none

/-- A character of a label's name: a letter, a digit or an underscore (log 19). -/
def nameChar (c : Char) : Bool :=
  let v := c.toNat
  (48 ≤ v && v ≤ 57) || (65 ≤ v && v ≤ 90) || (97 ≤ v && v ≤ 122) || v == 95

/-- A label's name: it does not begin with a digit (log 19). -/
def isName : List Char → Bool
  | [] => false
  | c :: cs => nameChar c && !(48 ≤ c.toNat && c.toNat ≤ 57) && cs.all nameChar

/-- A number, in hex with `0x` or in decimal (R115). -/
def readNumber : List Char → Option Nat
  | [] => none
  | ['0', 'x'] => none
  | '0' :: 'x' :: cs => numeral 16 0 cs
  | c :: cs => numeral 10 0 (c :: cs)

/-- A register, in either case (R115). -/
def readRegister : List Char → Option Nibble
  | ['V', d] => (digitOf d).map (BitVec.ofNat 4)
  | ['v', d] => (digitOf d).map (BitVec.ofNat 4)
  | _ => none

/-- An operand (R115): a special operand, a register, a number, or else a label. -/
def readOperand (cs : List Char) : Option Operand :=
  match cs with
  | ['I'] => some .i
  | ['D', 'T'] => some .dt
  | ['S', 'T'] => some .st
  | ['K'] => some .k
  | ['F'] => some .f
  | ['B'] => some .b
  | ['[', 'I', ']'] => some .memAtI
  | _ =>
    match readRegister cs with
    | some x => some (.reg x)
    | none =>
      match readNumber cs with
      | some v => some (.num v)
      | none => if isName cs then some (.label cs) else none

/-- A space or a tab (log 19). -/
def blankChar (c : Char) : Bool := c == ' ' || c == '\t'

/-- A text without the blanks at its ends. -/
def trimmed (cs : List Char) : List Char :=
  ((cs.dropWhile blankChar).reverse.dropWhile blankChar).reverse

/-- The parts of a text between its commas. -/
def splitCommas : List Char → List (List Char)
  | [] => [[]]
  | c :: cs =>
    if c = ',' then [] :: splitCommas cs
    else
      match splitCommas cs with
      | part :: parts => (c :: part) :: parts
      | [] => [[c]]

/-- What a line of a program is (R115, R116). -/
inductive Line where
  | empty
  | label (name : List Char)
  | instruction (op : Op) (operands : List Operand)
  deriving DecidableEq, Repr

/-- Operands separated by commas (R115). -/
def readOperands (cs : List Char) : Option (List Operand) :=
  if cs.isEmpty then some [] else ((splitCommas cs).map trimmed).mapM readOperand

/-- A line with its comment, which begins at `;`, taken off (R115): blank, a label, or a mnemonic and its operands. -/
def readLine (line : List Char) : Option Line :=
  let cs := trimmed (line.takeWhile (· != ';'))
  if cs.isEmpty then some .empty
  else if cs.getLast? = some ':' then
    if isName cs.dropLast then some (.label cs.dropLast) else none
  else
    let mnemonic := cs.takeWhile (fun c => !blankChar c)
    let operands := readOperands (trimmed (cs.dropWhile (fun c => !blankChar c)))
    match Op.all.find? (fun op => op.name == mnemonic), operands with
    | some op, some operands => some (.instruction op operands)
    | _, _ => none

/-! ### A program -/

/-- The labels of a program and the addresses they stand for (R115): each instruction is two bytes long (R100). -/
def labelsFrom : Nat → List Line → List (List Char × Nat)
  | _, [] => []
  | a, .empty :: rest => labelsFrom a rest
  | a, .label name :: rest => (name, a) :: labelsFrom a rest
  | a, .instruction _ _ :: rest => labelsFrom (a + 2) rest

/-- An operand with a label replaced by its address; a label the program does not have is rejected. -/
def resolve (labels : List (List Char × Nat)) : Operand → Option Operand
  | .label name => (labels.lookup name).map .num
  | .reg x => some (.reg x)
  | .num v => some (.num v)
  | .i => some .i
  | .dt => some .dt
  | .st => some .st
  | .k => some .k
  | .f => some .f
  | .b => some .b
  | .memAtI => some .memAtI

/-- The instructions of a program's lines. -/
def instructionsOf (labels : List (List Char × Nat)) : List Line → Option (List Instr)
  | [] => some []
  | .empty :: rest => instructionsOf labels rest
  | .label _ :: rest => instructionsOf labels rest
  | .instruction op operands :: rest =>
    match (operands.mapM (resolve labels)).bind (build op), instructionsOf labels rest with
    | some i, some is => some (i :: is)
    | _, _ => none

/-- A program's image, to be loaded at `PROGRAM_START` (R351), which is `start`, from its lines; a program that names a
label twice is rejected (log 19). -/
def assemble (start : Word) (lines : List (List Char)) : Option (List Byte) :=
  match lines.mapM readLine with
  | none => none
  | some ls =>
    let labels := labelsFrom start.toNat ls
    if (labels.map (·.1)).Nodup then (instructionsOf labels ls).map (fun is => is.flatMap encodeBytes) else none

end Sys2Proof.Machine
end

