-- ==== Sys2Proof/Machine/Interface.lean ====
section
/-! DEFINITION. The outward side of the core's transaction-level interface (spec/60_exceptions.md R340): which memory
and framebuffer accesses one step issues. -/

namespace Sys2Proof.Machine

/-- One access of the core to a collaborator: the "out" signals of R340. The status and the fault record are the
fields of those names. -/
inductive Transaction where
  /-- `mem_addr` for a byte of the instruction word (R72). -/
  | fetchRead (addr : Nat)
  /-- `mem_addr` for a data byte (R74). -/
  | dataRead (addr : Nat)
  /-- `mem_addr`, `mem_we`, `mem_wdata` (R74). -/
  | dataWrite (addr : Nat) (b : Byte)
  /-- `fb_clear` (R333). -/
  | fbClear
  /-- `fb_render` with `fb_x`, `fb_y`, `fb_h`, `fb_rows` (R333). -/
  | fbRender (x y : Byte) (h : Nibble) (rows : List Byte)
  deriving DecidableEq, Repr

/-- Reads of `n` data bytes from address `a`, lowest first (the order is not observable, R340). -/
def dataReads : Nat → Nat → List Transaction
  | _, 0 => []
  | a, n + 1 => .dataRead a :: dataReads (a + 1) n

/-- The accesses of an instruction whose check of the `n` bytes from `I` passes; none where it fails (R78). -/
def State.ifRange (s : State) (n : Nat) (accesses : List Transaction) : List Transaction :=
  if s.rangeOk n then accesses else []

/-- The data and framebuffer accesses of one instruction (R71, R270, R272). -/
def accessesOf (i : Instr) (s : State) : List Transaction :=
  match i with
  | .cls _ => [.fbClear]
  | .ret _ => []
  | .jp _ => []
  | .call _ => []
  | .seImm _ _ => []
  | .sneImm _ _ => []
  | .seReg _ _ _ => []
  | .ldImm _ _ => []
  | .addImm _ _ => []
  | .ldReg _ _ => []
  | .or _ _ => []
  | .and _ _ => []
  | .xor _ _ => []
  | .addReg _ _ => []
  | .sub _ _ => []
  | .shr _ _ => []
  | .subn _ _ => []
  | .shl _ _ => []
  | .sneReg _ _ _ => []
  | .ldI _ => []
  | .jpo _ => []
  | .rnd _ _ => []
  | .drw x y n =>
    s.ifRange n.toNat (dataReads s.i.toNat n.toNat ++ [.fbRender (s.readV x) (s.readV y) n (s.sprite n)])
  | .skp _ => []
  | .sknp _ => []
  | .ldVxDt _ => []
  | .ldVxK _ => []
  | .ldDtVx _ => []
  | .ldStVx _ => []
  | .addIVx _ => []
  | .ldFVx _ => []
  | .ldBVx x =>
    s.ifRange 3 [.dataWrite s.i.toNat (ones (s.readV x)), .dataWrite (s.i.toNat + 1) (tens (s.readV x)),
      .dataWrite (s.i.toNat + 2) (hundreds (s.readV x))]
  | .ldMemVx x => s.ifRange 1 [.dataWrite s.i.toNat (s.readV x)]
  | .ldVxMem _ => s.ifRange 1 [.dataRead s.i.toNat]

/-- The accesses of an instruction word once it is fetched; an unimplemented word makes none (R312). -/
def State.accessesOfWord (s : State) (w : Word) : List Transaction :=
  match decodeWord s.cfg.strictDecode w with
  | .ok i => accessesOf i s
  | .error _ => []

/-- The accesses of the core's next step (R340): in phase `RUN` the two fetch reads, where the word lies in memory, and
then the instruction's. -/
def State.transactions (s : State) : List Transaction :=
  match s.phase with
  | .halted => []
  | .waitKey _ => []
  | .run =>
    match s.fetchWord with
    | none => []
    | some w => .fetchRead s.pc.toNat :: .fetchRead (s.pc.toNat + 1) :: s.accessesOfWord w

/-- What an access does to memory. -/
def Transaction.onMemory (cfg : Config.Params) : Transaction → Memory → Memory
  | .fetchRead _, m => m
  | .dataRead _, m => m
  | .dataWrite a b, m => m.write cfg a b
  | .fbClear, m => m
  | .fbRender _ _ _ _, m => m

/-- What an access does to the framebuffer (R333). -/
def Transaction.onFramebuffer (cfg : Config.Params) : Transaction → Framebuffer → Framebuffer
  | .fetchRead _, fb => fb
  | .dataRead _, fb => fb
  | .dataWrite _ _, fb => fb
  | .fbClear, fb => fb.clear
  | .fbRender x y _ rows, fb => (fb.render cfg x y rows).1

/-- The kind of an access, for counting them (R340). -/
def Transaction.isFetch : Transaction → Bool
  | .fetchRead _ => true
  | .dataRead _ => false
  | .dataWrite _ _ => false
  | .fbClear => false
  | .fbRender _ _ _ _ => false

/-- A data read. -/
def Transaction.isDataRead : Transaction → Bool
  | .fetchRead _ => false
  | .dataRead _ => true
  | .dataWrite _ _ => false
  | .fbClear => false
  | .fbRender _ _ _ _ => false

/-- A data write. -/
def Transaction.isDataWrite : Transaction → Bool
  | .fetchRead _ => false
  | .dataRead _ => false
  | .dataWrite _ _ => true
  | .fbClear => false
  | .fbRender _ _ _ _ => false

/-- A call of the framebuffer. -/
def Transaction.isFbCall : Transaction → Bool
  | .fetchRead _ => false
  | .dataRead _ => false
  | .dataWrite _ _ => false
  | .fbClear => true
  | .fbRender _ _ _ _ => true

end Sys2Proof.Machine
end

