-- ==== Sys2Proof/Safety.lean ====
section
/-! DEFINITION. The terms the statements use: how a run ends (spec/70_reset_and_hazards.md R354), the invariant of the
machine, and what an instruction leaves unchanged. -/

namespace Sys2Proof.Machine

/-- The run is complete: `PC` holds the address of a jump to itself (R354). It does not say that the machine stops. -/
def State.complete (s : State) : Bool :=
  s.phase == .run &&
    match s.fetchWord with
    | some w => opOf w == 1 && target (nnnOf w) == s.pc
    | none => false

/-- The core is blocked in `LD_VX_K` (R354, R339). -/
def State.held (s : State) : Bool :=
  match s.phase with
  | .waitKey _ => true
  | .run => false
  | .halted => false

/-- The invariant of the machine: memory is in its canonical form and inside `MEM_SIZE` (R70); the fault record and
the status go together (R44); a halted core was halted by a fault under `FAIL_POLICY = HALT` (R313, R339); the call stack
has `STACK_DEPTH` entries, of which `SP` are in use (R36); the framebuffer is in its canonical form and on its grid
(R333). -/
structure State.Inv (s : State) : Prop where
  memory_canonical : s.mem.wf s.cfg
  memory_within : s.mem.within s.cfg.memSize
  failed_has_cause : s.status = .failed → s.faultCause ≠ .none
  no_cause_no_info : s.faultCause = .none → s.faultInfo = 0
  halted_by_fault : s.phase = .halted → s.status = .failed ∧ s.cfg.failPolicy = .halt
  stack_size : s.stack.length = s.cfg.stackDepth
  stack_bound : s.sp ≤ s.cfg.stackDepth
  pixels_canonical : s.fb.wf
  pixels_within : s.fb.within s.cfg.fbWidth s.cfg.fbHeight

/-- What an instruction may change beside `PC` and `STATUS`; everything not named here it leaves unchanged. -/
structure MayChange where
  /-- The general registers that may change. -/
  regs : List Nibble := []
  index : Bool := false
  callStack : Bool := false
  delay : Bool := false
  sound : Bool := false
  key : Bool := false
  /-- The memory addresses that may change. -/
  bytes : List Nat := []
  pixels : Bool := false
  phase : Bool := false
  faultRecord : Bool := false

/-- The frame of an instruction: from `s` to `t` nothing changes but what `c` names, `PC` and `STATUS`. The parameters,
`FONT_BASE` and the collaborators' coming answers never change. -/
structure Keeps (c : MayChange) (s t : State) : Prop where
  regs : ∀ r, r ∉ c.regs → t.readV r = s.readV r
  index : c.index = false → t.i = s.i
  callStack : c.callStack = false → t.sp = s.sp ∧ t.stack = s.stack
  delay : c.delay = false → t.dt = s.dt
  sound : c.sound = false → t.st = s.st
  key : c.key = false → t.key = s.key
  bytes : ∀ a, a ∉ c.bytes → t.memRead a = s.memRead a
  pixels : c.pixels = false → ∀ px py, t.fb.pixel px py = s.fb.pixel px py
  phase : c.phase = false → t.phase = s.phase
  faultRecord : c.faultRecord = false → t.faultCause = s.faultCause ∧ t.faultInfo = s.faultInfo
  fontBase : t.fontBase = s.fontBase
  cfg : t.cfg = s.cfg
  inputs : t.inputs = s.inputs
  draws : t.draws = s.draws

/-- The instruction ended with ADVANCE: `PC` moved on by one instruction width (R142). -/
structure Advanced (s t : State) : Prop where
  pc : t.pc = s.pc + 2
  status : t.status = .advance

/-- The instruction ended with ALREADY_SET and left `PC` at `a` (R142). -/
structure WentTo (a : Word) (t : State) : Prop where
  pc : t.pc = a
  status : t.status = .alreadySet

/-- The net effect of a skip instruction on `PC` and `STATUS`: two instruction widths and ALREADY_SET when `c` holds,
one and ADVANCE otherwise (R143). -/
structure SkippedIf (c : Prop) (s t : State) : Prop where
  taken : c → WentTo (s.pc + 4) t
  notTaken : ¬ c → Advanced s t

/-- A fault `cause` with `info` was taken from `s` (R310, R312, R313): the record is written, `FAIL_POLICY` applied,
and nothing else changed. -/
structure Faulted (cause : FaultCause) (info : Word) (s t : State) : Prop where
  status : t.status = .failed
  faultCause : t.faultCause = cause
  faultInfo : t.faultInfo = info
  halt : s.cfg.failPolicy = .halt → t.phase = .halted ∧ t.pc = s.pc
  skip : s.cfg.failPolicy = .skip → t.phase = s.phase ∧ t.pc = s.pc + 2
  frame : Keeps { phase := true, faultRecord := true } s t

/-- The bytes at `PC` and after it are in memory and decode to `i` (R72, R111). -/
structure Decodes (s : State) (i : Instr) : Prop where
  inMemory : s.pc.toNat + 1 < s.cfg.memSize
  bytes : decode s.cfg.strictDecode [s.memRead s.pc.toNat, s.memRead (s.pc.toNat + 1)] = .ok (i, [])

/-- The bytes at `PC` and after it are in memory and make the word `w` (R72). -/
structure Fetches (s : State) (w : Word) : Prop where
  inMemory : s.pc.toNat + 1 < s.cfg.memSize
  high : highByte w = s.memRead s.pc.toNat
  low : lowByte w = s.memRead (s.pc.toNat + 1)

/-- How many bytes from `I` an instruction reaches (R71, R74). -/
def reachOf : Instr → Nat
  | .cls _ => 0
  | .ret _ => 0
  | .jp _ => 0
  | .call _ => 0
  | .seImm _ _ => 0
  | .sneImm _ _ => 0
  | .seReg _ _ _ => 0
  | .ldImm _ _ => 0
  | .addImm _ _ => 0
  | .ldReg _ _ => 0
  | .or _ _ => 0
  | .and _ _ => 0
  | .xor _ _ => 0
  | .addReg _ _ => 0
  | .sub _ _ => 0
  | .shr _ _ => 0
  | .subn _ _ => 0
  | .shl _ _ => 0
  | .sneReg _ _ _ => 0
  | .ldI _ => 0
  | .jpo _ => 0
  | .rnd _ _ => 0
  | .drw _ _ n => n.toNat
  | .skp _ => 0
  | .sknp _ => 0
  | .ldVxDt _ => 0
  | .ldVxK _ => 0
  | .ldDtVx _ => 0
  | .ldStVx _ => 0
  | .addIVx _ => 0
  | .ldFVx _ => 0
  | .ldBVx _ => 3
  | .ldMemVx _ => 1
  | .ldVxMem _ => 1

/-- The fault a step in phase `RUN` takes, and what it records: the table of R311. (`SP` is never above `STACK_DEPTH`,
`State.Inv`, so a stack that is full has `SP == STACK_DEPTH`.) -/
inductive FaultDue (s : State) : FaultCause → Word → Prop where
  | fetch (h : s.cfg.memSize ≤ s.pc.toNat + 1) : FaultDue s .fetchRange s.pc
  | word (w : Word) (e : DecodeError) (h : Fetches s w) (bad : decodeWord s.cfg.strictDecode w = .error e) :
    FaultDue s .unimplemented w
  | call (nnn : Addr12) (h : Decodes s (.call nnn)) (full : s.cfg.stackDepth ≤ s.sp) :
    FaultDue s .stackOverflow s.pc
  | ret (ign : Nibble) (h : Decodes s (.ret ign)) (empty : s.sp = 0) : FaultDue s .stackUnderflow s.pc
  | data (i : Instr) (k : Nat) (h : Decodes s i) (reached : k < reachOf i)
    (outside : s.cfg.memSize ≤ s.i.toNat + k) : FaultDue s .memRange s.i

/-- A set bit of the `n`-row sprite in memory at `I`, drawn at `(V[x], V[y])`, lands on the pixel `(px, py)` (R272,
R333): bit `7 - c` of row `r` is placed by `FB_EDGE`. -/
def State.Covers (s : State) (x y n : Nibble) (px py : Nat) : Prop :=
  ∃ r < n.toNat, ∃ c < 8, (s.memRead (s.i.toNat + r)).getLsbD (7 - c) = true ∧
    place s.cfg (s.readV x).toNat (s.readV y).toNat c r = some (px, py)

/-- How many set bits of the `n`-row sprite in memory at `I`, drawn at `(V[x], V[y])`, land on the pixel `(px, py)`. More
than one can only where the framebuffer is less than 8 wide or less than `n` high (log 8). -/
def State.hits (s : State) (x y n : Nibble) (px py : Nat) : Nat :=
  ((List.range n.toNat).map fun r => (List.range 8).countP fun c =>
    (s.memRead (s.i.toNat + r)).getLsbD (7 - c) &&
      place s.cfg (s.readV x).toNat (s.readV y).toNat c r == some (px, py)).sum

end Sys2Proof.Machine
end

