-- ==== Sys2Proof/Certificates/Slice0/Obligations.lean ====
section
/-! DEFINITION. The statements for the provers: what the numbered rules of spec/ say the instructions and the machine
do. -/

open Sys2Proof Sys2Proof.Machine

/-! ### Encoding -/

/-- Decoding an encoded well-formed instruction gives it back, as a word and as bytes in memory (R111, R114). -/
def Obligations.DecodeOfEncode : Prop :=
  ∀ (strict : Bool) (i : Instr), i.wf strict = true →
    decodeWord strict (encode i) = .ok i ∧
      ∀ rest : List Byte, decode strict (encodeBytes i ++ rest) = .ok (i, rest)

/-- Encoding a decoded word gives the word back, and what is decoded is well formed: no bit of a word is dropped. -/
def Obligations.EncodeOfDecode : Prop :=
  ∀ (strict : Bool) (w : Word) (i : Instr), decodeWord strict w = .ok i → encode i = w ∧ i.wf strict = true

/-- The opcode map R110: a word decodes to an instruction exactly where it matches that instruction's row, and it
matches the rows of no two instructions. -/
def Obligations.OpcodeMap : Prop :=
  ∀ (strict : Bool) (w : Word),
    (∀ i, decodeWord strict w = .ok i → matchesRow strict w i = true) ∧
      (∀ i, matchesRow strict w i = true → ∃ j, decodeWord strict w = .ok j ∧ j.pattern = i.pattern) ∧
        ∀ i j, matchesRow strict w i = true → matchesRow strict w j = true → i.pattern = j.pattern

/-- The unimplemented words: with `STRICT_DECODE = false` exactly the four groups R112 lists, and with
`STRICT_DECODE = true` those of R114 besides. -/
def Obligations.UnimplementedWords : Prop :=
  ∀ w : Word,
    ((∃ e, decodeWord false w = .error e) ↔
      (opOf w = 0x0 ∧ kkOf w ∉ [0xE0, 0xEE]) ∨
        (opOf w = 0x8 ∧ nOf w ∈ [0x8, 0x9, 0xA, 0xB, 0xC, 0xD, 0xF]) ∨
          (opOf w = 0xE ∧ kkOf w ∉ [0x9E, 0xA1]) ∨
            (opOf w = 0xF ∧ kkOf w ∉ [0x07, 0x0A, 0x15, 0x18, 0x1E, 0x29, 0x33, 0x55, 0x65])) ∧
      ((∃ e, decodeWord true w = .error e) ↔
        (∃ e, decodeWord false w = .error e) ∨
          (opOf w = 0x0 ∧ kkOf w ∈ [0xE0, 0xEE] ∧ xOf w ≠ 0) ∨
            ((opOf w = 0x5 ∨ opOf w = 0x9) ∧ nOf w ≠ 0))

/-- A few words written out from R110 and what they decode to: a sanity check. -/
def Obligations.SampleWords : Prop :=
  decodeTableWord 16 0x00E0 = some (.cls 0) ∧ decodeTableWord 16 0x1234 = some (.jp 0x234) ∧
    decodeTableWord 16 0x6A07 = some (.ldImm 0xA 0x07) ∧ decodeTableWord 16 0x3A07 = some (.seImm 0xA 0x07) ∧
      decodeTableWord 16 0x8417 = some (.subn 4 1) ∧ decodeTableWord 16 0xD125 = some (.drw 1 2 5) ∧
        decodeTableWord 16 0xF355 = some (.ldMemVx 3) ∧ decodeTableWord 16 0xE2A1 = some (.sknp 2)

/-- The assembler's forms (R115, R116): the spelling of R110 of an instruction whose ignored nibble is 0 builds it, and
whatever is built is spelled so, but for `SHR Vx` and `SHL Vx`, which stand for `y = 0`. -/
def Obligations.AssemblerForms : Prop :=
  (∀ i : Instr, i.wf true = true → build (spelling i).1 (spelling i).2 = some i) ∧
    ∀ (op : Op) (operands : List Operand) (i : Instr), build op operands = some i → i.wf true = true ∧
      (spelling i = (op, operands) ∨
        (∃ x, (op, operands) = (.shr, [.reg x]) ∧ i = .shr x 0) ∨
          ∃ x, (op, operands) = (.shl, [.reg x]) ∧ i = .shl x 0)

/-! ### The ALU family -/

/-- `LD_IMM` (R190). -/
def Obligations.LoadImmediate : Prop :=
  ∀ (strict : Bool) (x : Nibble) (kk : Byte) (s : State),
    decodeWord strict (packXK 0x6 x kk) = .ok (.ldImm x kk) ∧
      ∃ t, exec (.ldImm x kk) s = .next t ∧ t.readV x = kk ∧ Advanced s t ∧ Keeps { regs := [x] } s t

/-- `ADD_IMM` (R191): modulo 256, and VF keeps its value unless it is the destination. -/
def Obligations.AddImmediate : Prop :=
  ∀ (strict : Bool) (x : Nibble) (kk : Byte) (s : State),
    decodeWord strict (packXK 0x7 x kk) = .ok (.addImm x kk) ∧
      ∃ t, exec (.addImm x kk) s = .next t ∧
        (t.readV x).toNat = ((s.readV x).toNat + kk.toNat) % 256 ∧ Advanced s t ∧ Keeps { regs := [x] } s t

/-- `LD_REG` (R192). -/
def Obligations.CopyRegister : Prop :=
  ∀ (strict : Bool) (x y : Nibble) (s : State),
    decodeWord strict (packXYN 0x8 x y 0x0) = .ok (.ldReg x y) ∧
      ∃ t, exec (.ldReg x y) s = .next t ∧ t.readV x = s.readV y ∧ Advanced s t ∧ Keeps { regs := [x] } s t

/-- `OR`, `AND`, `XOR` (R193, R194, R195), bit by bit. -/
def Obligations.BitwiseLogic : Prop :=
  ∀ (strict : Bool) (x y : Nibble) (s : State),
    (decodeWord strict (packXYN 0x8 x y 0x1) = .ok (.or x y) ∧
        ∃ t, exec (.or x y) s = .next t ∧
          (∀ k < 8, (t.readV x).getLsbD k = ((s.readV x).getLsbD k || (s.readV y).getLsbD k)) ∧
            Advanced s t ∧ Keeps { regs := [x] } s t) ∧
      (decodeWord strict (packXYN 0x8 x y 0x2) = .ok (.and x y) ∧
        ∃ t, exec (.and x y) s = .next t ∧
          (∀ k < 8, (t.readV x).getLsbD k = ((s.readV x).getLsbD k && (s.readV y).getLsbD k)) ∧
            Advanced s t ∧ Keeps { regs := [x] } s t) ∧
      (decodeWord strict (packXYN 0x8 x y 0x3) = .ok (.xor x y) ∧
        ∃ t, exec (.xor x y) s = .next t ∧
          (∀ k < 8, (t.readV x).getLsbD k = ((s.readV x).getLsbD k ^^ (s.readV y).getLsbD k)) ∧
            Advanced s t ∧ Keeps { regs := [x] } s t)

/-- `ADD_REG` (R196): the sum modulo 256 in `V[x]`, then the carry in VF, last. -/
def Obligations.AddRegister : Prop :=
  ∀ (strict : Bool) (x y : Nibble) (s : State),
    decodeWord strict (packXYN 0x8 x y 0x4) = .ok (.addReg x y) ∧
      ∃ t, exec (.addReg x y) s = .next t ∧
        (x ≠ vf → (t.readV x).toNat = ((s.readV x).toNat + (s.readV y).toNat) % 256) ∧
          t.readV vf = (if 255 < (s.readV x).toNat + (s.readV y).toNat then 1 else 0) ∧
            Advanced s t ∧ Keeps { regs := [x, vf] } s t

/-- `SUB` and `SUBN` (R197, R199): the difference modulo 256 in `V[x]`, then the no-borrow flag in VF, last. -/
def Obligations.Subtract : Prop :=
  ∀ (strict : Bool) (x y : Nibble) (s : State),
    (decodeWord strict (packXYN 0x8 x y 0x5) = .ok (.sub x y) ∧
        ∃ t, exec (.sub x y) s = .next t ∧
          (x ≠ vf → ((t.readV x).toNat : Int) = (((s.readV x).toNat : Int) - (s.readV y).toNat) % 256) ∧
            t.readV vf = (if (s.readV y).toNat ≤ (s.readV x).toNat then 1 else 0) ∧
              Advanced s t ∧ Keeps { regs := [x, vf] } s t) ∧
      (decodeWord strict (packXYN 0x8 x y 0x7) = .ok (.subn x y) ∧
        ∃ t, exec (.subn x y) s = .next t ∧
          (x ≠ vf → ((t.readV x).toNat : Int) = (((s.readV y).toNat : Int) - (s.readV x).toNat) % 256) ∧
            t.readV vf = (if (s.readV x).toNat ≤ (s.readV y).toNat then 1 else 0) ∧
              Advanced s t ∧ Keeps { regs := [x, vf] } s t)

/-- `SHR` and `SHL` (R198, R200): `V[x]` shifted by one, then the bit shifted out in VF, last; `V[y]` takes no part. -/
def Obligations.Shift : Prop :=
  ∀ (strict : Bool) (x y : Nibble) (s : State),
    (decodeWord strict (packXYN 0x8 x y 0x6) = .ok (.shr x y) ∧
        ∃ t, exec (.shr x y) s = .next t ∧
          (x ≠ vf → (t.readV x).toNat = (s.readV x).toNat / 2) ∧
            (t.readV vf).toNat = (s.readV x).toNat % 2 ∧ Advanced s t ∧ Keeps { regs := [x, vf] } s t) ∧
      (decodeWord strict (packXYN 0x8 x y 0xE) = .ok (.shl x y) ∧
        ∃ t, exec (.shl x y) s = .next t ∧
          (x ≠ vf → (t.readV x).toNat = (s.readV x).toNat * 2 % 256) ∧
            (t.readV vf).toNat = (s.readV x).toNat / 128 ∧ Advanced s t ∧ Keeps { regs := [x, vf] } s t)

/-- `RND` (R201): the random byte under the mask, and every byte is a possible answer of the random source. -/
def Obligations.RandomByteUnderMask : Prop :=
  ∀ (strict : Bool) (x : Nibble) (kk : Byte) (s : State),
    decodeWord strict (packXK 0xC x kk) = .ok (.rnd x kk) ∧
      (∃ t, exec (.rnd x kk) s = .next t ∧
        (∀ k < 8, (t.readV x).getLsbD k = (s.currentInputs.randByte.getLsbD k && kk.getLsbD k)) ∧
          Advanced s t ∧ Keeps { regs := [x] } s t) ∧
      ∀ r : Byte, ∃ answers : List Config.Inputs, ({ s with inputs := answers } : State).currentInputs.randByte = r

/-! ### Control flow -/

/-- `JP` (R151); a target whose word is not in memory faults at the next fetch. -/
def Obligations.Jump : Prop :=
  ∀ (strict : Bool) (nnn : Addr12) (s : State),
    decodeWord strict (packA 0x1 nnn) = .ok (.jp nnn) ∧
      ∃ t, exec (.jp nnn) s = .next t ∧ t.pc.toNat = nnn.toNat ∧ t.status = .alreadySet ∧ Keeps {} s t ∧
        (s.phase = .run → s.cfg.memSize ≤ nnn.toNat + 1 →
          ∃ u, coreStep t = .next u ∧ Faulted .fetchRange t.pc t u)

/-- `CALL` (R152, with `Push` of R37): its own address becomes the top entry; a full stack faults. The stack has
`STACK_DEPTH` entries by the invariant `StepKeepsInvariant` keeps. -/
def Obligations.CallPushesOwnAddress : Prop :=
  ∀ (strict : Bool) (nnn : Addr12) (s : State),
    decodeWord strict (packA 0x2 nnn) = .ok (.call nnn) ∧
      (s.sp < s.cfg.stackDepth → ∃ t, exec (.call nnn) s = .next t ∧
        t.sp = s.sp + 1 ∧ (s.stack.length = s.cfg.stackDepth → t.entry s.sp = s.pc) ∧
          t.stack.length = s.stack.length ∧ (∀ j : Nat, j ≠ s.sp → t.entry j = s.entry j) ∧
            t.pc.toNat = nnn.toNat ∧ t.status = .alreadySet ∧ Keeps { callStack := true } s t) ∧
      (s.cfg.stackDepth ≤ s.sp → ∃ t, exec (.call nnn) s = .next t ∧ Faulted .stackOverflow s.pc s t)

/-- `RET` (R150, with `Pop` of R37): it resumes after the `CALL`, or at it under `RETURN_RESUME = AT_CALL`; an empty
stack faults. -/
def Obligations.ReturnResumes : Prop :=
  ∀ (strict : Bool) (ign : Nibble) (s : State),
    (strict = false ∨ ign = 0 → decodeWord strict (packXK 0x0 ign 0xEE) = .ok (.ret ign)) ∧
      (0 < s.sp → ∃ t, exec (.ret ign) s = .next t ∧
        t.sp = s.sp - 1 ∧ t.stack = s.stack ∧
          (s.cfg.returnResume = .afterCall → t.pc = s.entry (s.sp - 1) + 2) ∧
            (s.cfg.returnResume = .atCall → t.pc = s.entry (s.sp - 1)) ∧
              t.status = .alreadySet ∧ Keeps { callStack := true } s t) ∧
      (s.sp = 0 → ∃ t, exec (.ret ign) s = .next t ∧ Faulted .stackUnderflow s.pc s t)

/-- A call and the return from it, with `RETURN_RESUME = AFTER_CALL`: execution goes on after the `CALL` with the stack
depth it had (D7; R150 and R152 together). -/
def Obligations.ReturnUndoesCall : Prop :=
  ∀ (nnn : Addr12) (ign : Nibble) (s : State), s.sp < s.cfg.stackDepth → s.stack.length = s.cfg.stackDepth →
    s.cfg.returnResume = .afterCall →
      ∃ t u, exec (.call nnn) s = .next t ∧ exec (.ret ign) t = .next u ∧
        u.pc = s.pc + 2 ∧ u.sp = s.sp ∧ (∀ j < s.sp, u.entry j = s.entry j) ∧
          Keeps { callStack := true } s u

/-- `JPO` (R153): it sets `I` and does not jump. -/
def Obligations.JumpOffsetSetsIndex : Prop :=
  ∀ (strict : Bool) (nnn : Addr12) (s : State),
    decodeWord strict (packA 0xB nnn) = .ok (.jpo nnn) ∧
      ∃ t, exec (.jpo nnn) s = .next t ∧ t.i.toNat = nnn.toNat + (s.readV 0).toNat ∧
        Advanced s t ∧ Keeps { index := true } s t

/-- `SE_IMM` and `SNE_IMM` (R154, R155). -/
def Obligations.SkipImmediate : Prop :=
  ∀ (strict : Bool) (x : Nibble) (kk : Byte) (s : State),
    (decodeWord strict (packXK 0x3 x kk) = .ok (.seImm x kk) ∧
        ∃ t, exec (.seImm x kk) s = .next t ∧ SkippedIf (s.readV x = kk) s t ∧ Keeps {} s t) ∧
      (decodeWord strict (packXK 0x4 x kk) = .ok (.sneImm x kk) ∧
        ∃ t, exec (.sneImm x kk) s = .next t ∧ SkippedIf (s.readV x ≠ kk) s t ∧ Keeps {} s t)

/-- `SE_REG` and `SNE_REG` (R156, R157); the low nibble is ignored unless `STRICT_DECODE`. -/
def Obligations.SkipRegister : Prop :=
  ∀ (strict : Bool) (x y ign : Nibble) (s : State),
    ((strict = false ∨ ign = 0 → decodeWord strict (packXYN 0x5 x y ign) = .ok (.seReg x y ign)) ∧
        ∃ t, exec (.seReg x y ign) s = .next t ∧ SkippedIf (s.readV x = s.readV y) s t ∧ Keeps {} s t) ∧
      ((strict = false ∨ ign = 0 → decodeWord strict (packXYN 0x9 x y ign) = .ok (.sneReg x y ign)) ∧
        ∃ t, exec (.sneReg x y ign) s = .next t ∧ SkippedIf (s.readV x ≠ s.readV y) s t ∧ Keeps {} s t)

/-- Of each skip and its opposite exactly one skips, in every state (derived in R155 and R276). -/
def Obligations.ExactlyOneSkips : Prop :=
  ∀ (x y ign : Nibble) (kk : Byte) (s : State), ∀ p ∈ [(Instr.seImm x kk, Instr.sneImm x kk),
      (Instr.seReg x y ign, Instr.sneReg x y ign), (Instr.skp x, Instr.sknp x)],
    ∃ t u, exec p.1 s = .next t ∧ exec p.2 s = .next u ∧
      ((t.pc = s.pc + 4 ∧ u.pc = s.pc + 2) ∨ (t.pc = s.pc + 2 ∧ u.pc = s.pc + 4))

/-- What each instruction does to `PC` and `STATUS` (R140, R142): ADVANCE and one width; ALREADY_SET and an address the
instruction wrote; FAILED; or, for a `LD_VX_K` that waits, nothing yet. -/
def Obligations.EveryInstructionEnds : Prop :=
  ∀ (i : Instr) (s : State), ∃ t, exec i s = .next t ∧
    (Advanced s t ∨
      (t.status = .alreadySet ∧
        (t.pc = s.pc + 4 ∨ (∃ nnn, (i = .jp nnn ∨ i = .call nnn) ∧ t.pc.toNat = nnn.toNat) ∨
          ∃ ign, i = .ret ign)) ∨
      (∃ cause info, Faulted cause info s t) ∨
      (∃ x, i = .ldVxK x ∧ s.key = 0 ∧ t.phase = .waitKey x ∧ t.pc = s.pc ∧ t.status = s.status))

/-! ### Index register, memory, BCD and font -/

/-- `LD_I` (R232). -/
def Obligations.LoadIndex : Prop :=
  ∀ (strict : Bool) (nnn : Addr12) (s : State),
    decodeWord strict (packA 0xA nnn) = .ok (.ldI nnn) ∧
      ∃ t, exec (.ldI nnn) s = .next t ∧ t.i.toNat = nnn.toNat ∧ Advanced s t ∧ Keeps { index := true } s t

/-- `ADD_I_VX` (R233): modulo 2^16, no flag, no range check. -/
def Obligations.AddToIndex : Prop :=
  ∀ (strict : Bool) (x : Nibble) (s : State),
    decodeWord strict (packXK 0xF x 0x1E) = .ok (.addIVx x) ∧
      ∃ t, exec (.addIVx x) s = .next t ∧ t.i.toNat = (s.i.toNat + (s.readV x).toNat) % 65536 ∧
        Advanced s t ∧ Keeps { index := true } s t

/-- `LD_F_VX` (R234): the glyph's address for a value up to 15, else `I` unchanged. -/
def Obligations.LoadFontAddress : Prop :=
  ∀ (strict : Bool) (x : Nibble) (s : State),
    decodeWord strict (packXK 0xF x 0x29) = .ok (.ldFVx x) ∧
      ∃ t, exec (.ldFVx x) s = .next t ∧
        ((s.readV x).toNat ≤ 15 →
          t.i.toNat = (s.fontBase.toNat + (s.readV x).toNat * s.cfg.glyphSize) % 65536) ∧
          (15 < (s.readV x).toNat → t.i = s.i) ∧ Advanced s t ∧ Keeps { index := true } s t

/-- The laws of the font lookup (R235). -/
def Obligations.FontLookupLaws : Prop :=
  ∀ (x : Nibble) (s s' : State), ∃ t t', exec (.ldFVx x) s = .next t ∧ exec (.ldFVx x) s' = .next t' ∧
    ((s.readV x).toNat ≤ 15 → s'.readV x = s.readV x → s'.fontBase = s.fontBase →
      s'.cfg.glyphSize = s.cfg.glyphSize → t'.i = t.i) ∧
    ((s.readV x).toNat < 15 → (s'.readV x).toNat = (s.readV x).toNat + 1 → s'.fontBase = s.fontBase →
      s'.cfg.glyphSize = s.cfg.glyphSize → t'.i = t.i + BitVec.ofNat 16 s.cfg.glyphSize) ∧
    (16 ≤ (s.readV x).toNat → Advanced s t ∧ Keeps {} s t)

/-- `LD_B_VX` (R236): the decimal digits at `I`, ones digit first, or `MEM_RANGE` with nothing written; the
next fetch sees the new bytes. -/
def Obligations.StoreDecimal : Prop :=
  ∀ (strict : Bool) (x : Nibble) (s : State),
    decodeWord strict (packXK 0xF x 0x33) = .ok (.ldBVx x) ∧
      (s.i.toNat + 2 < s.cfg.memSize → ∃ t, exec (.ldBVx x) s = .next t ∧
        (t.memRead s.i.toNat).toNat = (s.readV x).toNat % 10 ∧
          (t.memRead (s.i.toNat + 1)).toNat = (s.readV x).toNat / 10 % 10 ∧
            (t.memRead (s.i.toNat + 2)).toNat = (s.readV x).toNat / 100 ∧
              Advanced s t ∧ Keeps { bytes := [s.i.toNat, s.i.toNat + 1, s.i.toNat + 2] } s t ∧
                (t.pc.toNat + 1 < s.cfg.memSize →
                  t.fetchWord = some (wordOfBytes (t.memRead t.pc.toNat) (t.memRead (t.pc.toNat + 1))))) ∧
      (s.cfg.memSize ≤ s.i.toNat + 2 → ∃ t, exec (.ldBVx x) s = .next t ∧ Faulted .memRange s.i s t)

/-- The digits `LD_B_VX` writes are digits and spell the value (R237). -/
def Obligations.DecimalDigitsSpellValue : Prop :=
  ∀ (x : Nibble) (s : State), s.i.toNat + 2 < s.cfg.memSize → ∃ t, exec (.ldBVx x) s = .next t ∧
    ∃ d0 d1 d2 : Nat, (t.memRead s.i.toNat).toNat = d0 ∧ (t.memRead (s.i.toNat + 1)).toNat = d1 ∧
      (t.memRead (s.i.toNat + 2)).toNat = d2 ∧ d0 + 10 * d1 + 100 * d2 = (s.readV x).toNat ∧
        d0 ≤ 9 ∧ d1 ≤ 9 ∧ d2 ≤ 2

/-- `LD_MEM_VX` (R238): one byte at `I`, or `MEM_RANGE`. -/
def Obligations.SpillRegister : Prop :=
  ∀ (strict : Bool) (x : Nibble) (s : State),
    decodeWord strict (packXK 0xF x 0x55) = .ok (.ldMemVx x) ∧
      (s.i.toNat < s.cfg.memSize → ∃ t, exec (.ldMemVx x) s = .next t ∧
        t.memRead s.i.toNat = s.readV x ∧ Advanced s t ∧ Keeps { bytes := [s.i.toNat] } s t) ∧
      (s.cfg.memSize ≤ s.i.toNat → ∃ t, exec (.ldMemVx x) s = .next t ∧ Faulted .memRange s.i s t)

/-- `LD_VX_MEM` (R240): one byte from `I`, or `MEM_RANGE` with `V[x]` unchanged. -/
def Obligations.FillRegister : Prop :=
  ∀ (strict : Bool) (x : Nibble) (s : State),
    decodeWord strict (packXK 0xF x 0x65) = .ok (.ldVxMem x) ∧
      (s.i.toNat < s.cfg.memSize → ∃ t, exec (.ldVxMem x) s = .next t ∧
        t.readV x = s.memRead s.i.toNat ∧ Advanced s t ∧ Keeps { regs := [x] } s t) ∧
      (s.cfg.memSize ≤ s.i.toNat → ∃ t, exec (.ldVxMem x) s = .next t ∧ Faulted .memRange s.i s t)

/-- A spill and then a fill at the same `I` bring the byte to the other register (R79, R238, R240). -/
def Obligations.FillAfterSpill : Prop :=
  ∀ (x y : Nibble) (s : State), s.i.toNat < s.cfg.memSize →
    ∃ t u, exec (.ldMemVx x) s = .next t ∧ exec (.ldVxMem y) t = .next u ∧ u.readV y = s.readV x ∧
      u.pc = s.pc + 4 ∧ Keeps { regs := [y], bytes := [s.i.toNat] } s u

/-- Memories in canonical form that read the same are the same data, and a write keeps the form. -/
def Obligations.CanonicalMemory : Prop :=
  ∀ (cfg : Config.Params) (m m' : Memory), m.wf cfg → m'.wf cfg →
    ((∀ a, m.read cfg a = m'.read cfg a) → m = m') ∧ ∀ a b, (m.write cfg a b).wf cfg

/-! ### Display, keyboard and timers -/

/-- `CLS` (R270): every pixel off; no core state changes but `PC` (and `STATUS`). -/
def Obligations.ClearDisplay : Prop :=
  ∀ (strict : Bool) (ign : Nibble) (s : State),
    (strict = false ∨ ign = 0 → decodeWord strict (packXK 0x0 ign 0xE0) = .ok (.cls ign)) ∧
      ∃ t, exec (.cls ign) s = .next t ∧ (∀ px py, t.fb.pixel px py = false) ∧
        Advanced s t ∧ Keeps { pixels := true } s t

/-- `DRW` (R272) with the framebuffer's contract (R333): a pixel changes exactly if an odd number of the sprite's set
bits land on it, VF tells whether one of them turned a pixel off; a sprite that leaves memory faults with no effect. On
a framebuffer at least 8 wide and `n` high no two bits land on one pixel, so the pixels covered change and no other. Two
things in it are the model's choice (log 8): on a smaller framebuffer a pixel hit twice is toggled twice and sets VF,
and a framebuffer with no pixel takes no bit, where R333's remainder has no value. -/
def Obligations.DrawSprite : Prop :=
  ∀ (strict : Bool) (x y n : Nibble) (s : State),
    decodeWord strict (packXYN 0xD x y n) = .ok (.drw x y n) ∧
      (n = 0 ∨ s.i.toNat + n.toNat - 1 < s.cfg.memSize → ∃ t, exec (.drw x y n) s = .next t ∧
        (∀ px py, (t.fb.pixel px py ≠ s.fb.pixel px py) ↔ s.hits x y n px py % 2 = 1) ∧
          (8 ≤ s.cfg.fbWidth → n.toNat ≤ s.cfg.fbHeight →
            ∀ px py, (t.fb.pixel px py ≠ s.fb.pixel px py) ↔ s.Covers x y n px py) ∧
          ((∃ px py, s.Covers x y n px py ∧ (s.fb.pixel px py = true ∨ 2 ≤ s.hits x y n px py)) →
            t.readV vf = 1) ∧
          ((¬ ∃ px py, s.Covers x y n px py ∧ (s.fb.pixel px py = true ∨ 2 ≤ s.hits x y n px py)) →
            t.readV vf = 0) ∧
          Advanced s t ∧ Keeps { regs := [vf], pixels := true } s t) ∧
      (n ≠ 0 → s.cfg.memSize ≤ s.i.toNat + n.toNat - 1 → ∃ t, exec (.drw x y n) s = .next t ∧
        Faulted .memRange s.i s t)

/-- Drawing the same sprite twice at the same position gives back every pixel; and on a framebuffer at least 8 wide and
`n` high, where the pixels the sprite covers were off, the first draw reports no collision and the second reports one
exactly if the sprite covers a pixel (R273). That the first clause holds on smaller framebuffers too, one with no pixel
among them, rests on the model's choice there (log 8). -/
def Obligations.DrawTwiceRestores : Prop :=
  ∀ (x y n : Nibble) (s : State), (n = 0 ∨ s.i.toNat + n.toNat - 1 < s.cfg.memSize) →
    ∃ t, exec (.drw x y n) s = .next t ∧
      (t.readV x = s.readV x → t.readV y = s.readV y →
        ∃ u, exec (.drw x y n) t = .next u ∧ (∀ px py, u.fb.pixel px py = s.fb.pixel px py) ∧
          (s.fb.wf → u.fb = s.fb) ∧
          (8 ≤ s.cfg.fbWidth → n.toNat ≤ s.cfg.fbHeight →
            (∀ px py, s.Covers x y n px py → s.fb.pixel px py = false) →
              t.readV vf = 0 ∧ (u.readV vf = 1 ↔ ∃ px py, s.Covers x y n px py)))

/-- `SKP` and `SKNP` (R275, R276) under either `KEY_CLEAR` (R277). -/
def Obligations.SkipOnKey : Prop :=
  ∀ (strict : Bool) (x : Nibble) (s : State),
    (decodeWord strict (packXK 0xE x 0x9E) = .ok (.skp x) ∧
        ∃ t, exec (.skp x) s = .next t ∧ SkippedIf (s.readV x = s.key) s t ∧
          (s.cfg.keyClear = .never → t.key = s.key) ∧ (s.cfg.keyClear = .afterSkipRead → t.key = 0) ∧
            Keeps { key := true } s t) ∧
      (decodeWord strict (packXK 0xE x 0xA1) = .ok (.sknp x) ∧
        ∃ t, exec (.sknp x) s = .next t ∧ SkippedIf (s.readV x ≠ s.key) s t ∧
          (s.cfg.keyClear = .never → t.key = s.key) ∧ (s.cfg.keyClear = .afterSkipRead → t.key = 0) ∧
            Keeps { key := true } s t)

/-- `LD_VX_K` (R280): a key already pressed is stored at once; with no key the core waits at the same `PC`. -/
def Obligations.LoadKeyOrWait : Prop :=
  ∀ (strict : Bool) (x : Nibble) (s : State),
    decodeWord strict (packXK 0xF x 0x0A) = .ok (.ldVxK x) ∧
      (s.key ≠ 0 → ∃ t, exec (.ldVxK x) s = .next t ∧ t.readV x = s.key ∧ Advanced s t ∧
        Keeps { regs := [x] } s t) ∧
      (s.key = 0 → ∃ t, exec (.ldVxK x) s = .next t ∧ t.phase = .waitKey x ∧ t.pc = s.pc ∧
        t.status = s.status ∧ Keeps { phase := true } s t)

/-- The completion of `LD_VX_K` in phase `WAIT_KEY` (R281): any key from 1 to 255 that the keyboard answers. -/
def Obligations.KeyAnswerCompletes : Prop :=
  ∀ (x : Nibble) (k : Byte) (s : State), s.phase = .waitKey x → k ≠ 0 → s.currentInputs.keyAnswer = some k →
    ∃ t, coreStep s = .next t ∧ t.key = k ∧ t.readV x = k ∧ t.phase = .run ∧ Advanced s t ∧
      Keeps { regs := [x], key := true, phase := true } s t

/-- A key wait with no answer: no instruction executes, and only the tick driver and the keyboard act. That this is a
step of the model, and that an answer of 0 is none, are the model's choices (logs 12 and 10). -/
def Obligations.KeyWaitHolds : Prop :=
  ∀ (x : Nibble) (s : State), s.phase = .waitKey x →
    (s.currentInputs.keyAnswer = none ∨ s.currentInputs.keyAnswer = some 0) →
      ∃ t, step s = .next t ∧ t.phase = .waitKey x ∧ t.pc = s.pc ∧ t.status = s.status ∧
        t.dt.toNat = s.dt.toNat - s.currentInputs.ticks ∧ t.st.toNat = s.st.toNat - s.currentInputs.ticks ∧
          t.key = s.currentInputs.keyWrite.getD s.key ∧
            Keeps { delay := true, sound := true, key := true } s { t with inputs := s.inputs, draws := s.draws }

/-- `LD_VX_DT`, `LD_DT_VX`, `LD_ST_VX` (R283, R284, R285). -/
def Obligations.TimerRegisters : Prop :=
  ∀ (strict : Bool) (x : Nibble) (s : State),
    (decodeWord strict (packXK 0xF x 0x07) = .ok (.ldVxDt x) ∧
        ∃ t, exec (.ldVxDt x) s = .next t ∧ t.readV x = s.dt ∧ Advanced s t ∧ Keeps { regs := [x] } s t) ∧
      (decodeWord strict (packXK 0xF x 0x15) = .ok (.ldDtVx x) ∧
        ∃ t, exec (.ldDtVx x) s = .next t ∧ t.dt = s.readV x ∧ Advanced s t ∧ Keeps { delay := true } s t) ∧
      (decodeWord strict (packXK 0xF x 0x18) = .ok (.ldStVx x) ∧
        ∃ t, exec (.ldStVx x) s = .next t ∧ t.st = s.readV x ∧ Advanced s t ∧ Keeps { sound := true } s t)

/-! ### Faults -/

/-- The faults of R311, in the order of R314: a step in phase `RUN` takes the one fault that is due, which is precise
(R312), and where none is due it records none. -/
def Obligations.FaultsAreThoseListed : Prop :=
  ∀ s : State, s.phase = .run →
    (∀ cause info, FaultDue s cause info → ∃ t, coreStep s = .next t ∧ Faulted cause info s t) ∧
      ((∀ cause info, ¬ FaultDue s cause info) → ∃ t, coreStep s = .next t ∧
        t.faultCause = s.faultCause ∧ t.faultInfo = s.faultInfo ∧ t.phase ≠ .halted ∧
          (t.status = .failed → t.phase ≠ .run)) ∧
      ∀ cause info cause' info', FaultDue s cause info → FaultDue s cause' info' → cause' = cause ∧ info' = info

/-- A halted core stops with its fault record (R313), and only a halted core stops (R354). Two choices of the model are
in it: that the stop is the outcome `fault` (log 4), and that a core held in `WAIT_KEY` with no answer answers a next
state too, though R281 gives it a step only when the keyboard answers (log 12). -/
def Obligations.OnlyHaltedCoreStops : Prop :=
  ∀ s : State,
    (s.phase = .halted → step s = .fault (.halted s.faultCause s.faultInfo)) ∧
      (s.phase ≠ .halted → ∃ t, step s = .next t)

/-- Only a fault under `FAIL_POLICY = HALT` halts the core, and a halt is never left (R313, R339). -/
def Obligations.OnlyFaultsHalt : Prop :=
  ∀ s t : State, step s = .next t → t.phase = .halted →
    s.phase = .run ∧ s.cfg.failPolicy = .halt ∧ FaultDue s t.faultCause t.faultInfo ∧
      Faulted t.faultCause t.faultInfo s t

/-- The codes of `STATUS` and `FAULT_CAUSE` (R44): 3 of the one, 6 and 7 of the other are never produced. -/
def Obligations.StatusCodes : Prop :=
  Status.advance.code = 0 ∧ Status.alreadySet.code = 1 ∧ Status.failed.code = 2 ∧
    FaultCause.none.code = 0 ∧ FaultCause.unimplemented.code = 1 ∧ FaultCause.stackOverflow.code = 2 ∧
      FaultCause.stackUnderflow.code = 3 ∧ FaultCause.memRange.code = 4 ∧ FaultCause.fetchRange.code = 5 ∧
        (∀ c : Status, c.code ≠ 3) ∧ ∀ c : FaultCause, c.code ≠ 6 ∧ c.code ≠ 7

/-! ### The step, the agents and reset -/

/-- A step runs the instruction the bytes at `PC` decode to, and then the other agents act. -/
def Obligations.StepRunsDecoded : Prop :=
  ∀ (s : State) (i : Instr), s.phase = .run → Decodes s i →
    ∃ t, exec i s = .next t ∧ step s = .next (t.between s.currentInputs)

/-- The fetch (R72): the byte at the lower address is the high half of the word; no word is read across the end of
memory, where a step faults instead. -/
def Obligations.FetchIsBigEndian : Prop :=
  ∀ s : State,
    (s.pc.toNat + 1 < s.cfg.memSize → ∃ w, s.fetchWord = some w ∧
      w.toNat = (s.memRead s.pc.toNat).toNat * 256 + (s.memRead (s.pc.toNat + 1)).toNat) ∧
    (s.cfg.memSize ≤ s.pc.toNat + 1 → s.fetchWord = none ∧
      (s.phase = .run → ∃ t, coreStep s = .next t ∧ Faulted .fetchRange s.pc s t))

/-- A stored byte is seen by the next fetch (R84): an instruction that overwrites the word after it changes what runs
next. -/
def Obligations.NextFetchSeesStore : Prop :=
  ∀ (s : State) (x : Nibble), s.i = s.pc + 2 → s.i.toNat + 2 < s.cfg.memSize →
    (∃ t w, exec (.ldMemVx x) s = .next t ∧ t.fetchWord = some w ∧ highByte w = s.readV x) ∧
      ∃ t w, exec (.ldBVx x) s = .next t ∧ t.fetchWord = some w ∧
        (highByte w).toNat = (s.readV x).toNat % 10 ∧ (lowByte w).toNat = (s.readV x).toNat / 10 % 10

/-- Between two core steps only the tick driver and the keyboard act (R330, R332, R334): timers stop at 0, `KEY` is
what the keyboard wrote, and everything of the core's stands. -/
def Obligations.BetweenSteps : Prop :=
  ∀ (s : State) (answers : Config.Inputs), s.phase ≠ .halted →
    (s.between answers).dt.toNat = s.dt.toNat - answers.ticks ∧
      (s.between answers).st.toNat = s.st.toNat - answers.ticks ∧
        (∀ k, answers.keyWrite = some k → (s.between answers).key = k) ∧
          (answers.keyWrite = none → (s.between answers).key = s.key) ∧
            (s.between answers).pc = s.pc ∧ (s.between answers).status = s.status ∧
              Keeps { delay := true, sound := true, key := true } s
                { s.between answers with inputs := s.inputs, draws := s.draws }

/-- Ticks and key writes of any number and value can happen between two steps (R332, R334). -/
def Obligations.AgentsAreUnconstrained : Prop :=
  ∀ (s : State) (answers : Config.Inputs), ∃ coming : List Config.Inputs,
    ({ s with inputs := coming } : State).currentInputs = answers ∧ coming.tail = s.inputs.tail

/-- A timer rises only in the step of the instruction that writes it (R364). -/
def Obligations.TimersRiseOnlyByWrite : Prop :=
  ∀ s t : State, step s = .next t →
    (s.dt.toNat < t.dt.toNat → s.phase = .run ∧ ∃ x, Decodes s (.ldDtVx x)) ∧
      (s.st.toNat < t.st.toNat → s.phase = .run ∧ ∃ x, Decodes s (.ldStVx x))

/-- Which instructions write what (R32, R35, R36, R38, R39, R40, R41, R43, R71): everything else keeps its value under
every other instruction. -/
def Obligations.WritersOfState : Prop :=
  ∀ (i : Instr) (s t : State), exec i s = .next t →
    (t.i ≠ s.i → ∃ nnn x, i = .ldI nnn ∨ i = .jpo nnn ∨ i = .addIVx x ∨ i = .ldFVx x) ∧
      (t.sp ≠ s.sp ∨ t.stack ≠ s.stack → ∃ nnn ign, i = .call nnn ∨ i = .ret ign) ∧
        (t.dt ≠ s.dt → ∃ x, i = .ldDtVx x) ∧ (t.st ≠ s.st → ∃ x, i = .ldStVx x) ∧
          (t.key ≠ s.key → s.cfg.keyClear = .afterSkipRead ∧ ∃ x, i = .skp x ∨ i = .sknp x) ∧
            (t.mem ≠ s.mem → ∃ x, i = .ldBVx x ∨ i = .ldMemVx x) ∧
              (t.fb ≠ s.fb → ∃ ign x y n, i = .cls ign ∨ i = .drw x y n) ∧
                t.fontBase = s.fontBase ∧ t.cfg = s.cfg ∧ t.inputs = s.inputs ∧ t.draws = s.draws

/-- VF (R32): an instruction other than the flag writers and `DRW` changes it only as its destination register. -/
def Obligations.WritersOfFlag : Prop :=
  ∀ (i : Instr) (s t : State), exec i s = .next t → t.readV vf ≠ s.readV vf →
    (∃ x y n, i = .addReg x y ∨ i = .sub x y ∨ i = .shr x y ∨ i = .subn x y ∨ i = .shl x y ∨
        i = .drw x y n) ∨
      (∃ kk, i = .ldImm vf kk ∨ i = .addImm vf kk ∨ i = .rnd vf kk) ∨
        (∃ y, i = .ldReg vf y ∨ i = .or vf y ∨ i = .and vf y ∨ i = .xor vf y) ∨
          i = .ldVxDt vf ∨ i = .ldVxK vf ∨ i = .ldVxMem vf

/-- The invariant holds at reset, and in the state the loader leaves, for all parameters. -/
def Obligations.InvariantAtReset : Prop :=
  State.reset.Inv ∧ (∀ cfg : Config.Params, (State.resetWith cfg).Inv) ∧
    ∀ (cfg : Config.Params) (image : List Byte) (s : State), cfg.programStart.toNat ≤ cfg.memSize →
      State.load cfg image = some s → s.Inv

/-- Every step keeps the invariant: memory canonical and inside `MEM_SIZE`, the fault record and the status together, a
halt only after a fault, the call stack of `STACK_DEPTH` entries with `SP` of them in use, the framebuffer canonical and
on its grid. -/
def Obligations.StepKeepsInvariant : Prop :=
  ∀ s t : State, s.Inv → step s = .next t → t.Inv

/-- No step writes the parameters or `FONT_BASE` (R41, R49). -/
def Obligations.StepKeepsParameters : Prop :=
  ∀ s t : State, step s = .next t → t.cfg = s.cfg ∧ t.fontBase = s.fontBase

/-- Reset (R47, with `RESET_REGS = ZERO`, log 7), for all parameters: the values the spec gives, and the model's own
choices beside them: the stack entries are 0 (log 5), the framebuffer is off (log 9), no collaborator's answer is fixed
(log 2). `State.reset` has the default parameters (log 1), whose values are those of R7, the font table of R353 (glyphs
0 to F) among them. -/
def Obligations.ResetValues : Prop :=
  (∀ cfg : Config.Params,
    (∀ x, (State.resetWith cfg).readV x = 0) ∧ (State.resetWith cfg).i = 0 ∧
      (State.resetWith cfg).pc = cfg.programStart ∧ (State.resetWith cfg).sp = 0 ∧
        (State.resetWith cfg).dt = 0 ∧ (State.resetWith cfg).st = 0 ∧ (State.resetWith cfg).key = 0 ∧
          (State.resetWith cfg).fontBase = cfg.fontBase ∧ (State.resetWith cfg).phase = .run ∧
            (State.resetWith cfg).status.code = 0 ∧ (State.resetWith cfg).faultCause.code = 0 ∧
              (State.resetWith cfg).faultInfo = 0 ∧ (State.resetWith cfg).cfg = cfg ∧
    (∀ (k : Nat) (b : Byte), cfg.fontData[k]? = some b →
      (State.resetWith cfg).memRead (cfg.fontBase.toNat + k) = b) ∧
    (∀ a, a < cfg.fontBase.toNat ∨ cfg.fontBase.toNat + cfg.fontData.length ≤ a →
      (State.resetWith cfg).memRead a = 0) ∧
    (State.resetWith cfg).stack.length = cfg.stackDepth ∧ (∀ j, (State.resetWith cfg).entry j = 0) ∧
      (∀ px py, (State.resetWith cfg).fb.pixel px py = false) ∧
        (State.resetWith cfg).inputs = [] ∧ (State.resetWith cfg).draws = 0) ∧
  State.reset = State.resetWith Config.Params.default ∧
    Config.Params.default.memSize = 4096 ∧ Config.Params.default.stackDepth = 16 ∧
      Config.Params.default.glyphSize = 5 ∧ Config.Params.default.fontBase = 0x000 ∧
        Config.Params.default.programStart = 0x200 ∧ Config.Params.default.fbWidth = 64 ∧
          Config.Params.default.fbHeight = 32 ∧ Config.Params.default.fbEdge = .wrap ∧
            Config.Params.default.returnResume = .afterCall ∧ Config.Params.default.keyClear = .never ∧
              Config.Params.default.strictDecode = false ∧ Config.Params.default.failPolicy = .halt ∧
                Config.Params.default.fontData =
                  [0xF0, 0x90, 0x90, 0x90, 0xF0, 0x20, 0x60, 0x20, 0x20, 0x70,
                   0xF0, 0x10, 0xF0, 0x80, 0xF0, 0xF0, 0x10, 0xF0, 0x10, 0xF0] ++
                  [0x90, 0x90, 0xF0, 0x10, 0x10, 0xF0, 0x80, 0xF0, 0x10, 0xF0,
                   0xF0, 0x80, 0xF0, 0x90, 0xF0, 0xF0, 0x10, 0x20, 0x40, 0x40] ++
                  [0xF0, 0x90, 0xF0, 0x90, 0xF0, 0xF0, 0x90, 0xF0, 0x10, 0xF0,
                   0xF0, 0x90, 0xF0, 0x90, 0x90, 0xE0, 0x90, 0xE0, 0x90, 0xE0] ++
                  [0xF0, 0x80, 0x80, 0x80, 0xF0, 0xE0, 0x90, 0x90, 0x90, 0xE0,
                   0xF0, 0x80, 0xF0, 0x80, 0xF0, 0xF0, 0x80, 0xF0, 0x80, 0x80]

/-- The loader (R351): memory is the image from `PROGRAM_START`, over the font from `FONT_BASE` and 0 elsewhere, every
register stands as at reset; an image that does not fit is refused. -/
def Obligations.LoaderPlacesImage : Prop :=
  ∀ (cfg : Config.Params) (image : List Byte), cfg.programStart.toNat ≤ cfg.memSize →
    (image.length ≤ cfg.memSize - cfg.programStart.toNat → ∃ s, State.load cfg image = some s ∧
      (∀ k < image.length, some (s.memRead (cfg.programStart.toNat + k)) = image[k]?) ∧
        (∀ a, a < cfg.programStart.toNat ∨ cfg.programStart.toNat + image.length ≤ a →
          s.memRead a = (State.resetWith cfg).memRead a) ∧
        Keeps { bytes := (List.range image.length).map (cfg.programStart.toNat + ·) } (State.resetWith cfg) s ∧
          s.pc = cfg.programStart ∧ s.status = .advance) ∧
    (cfg.memSize - cfg.programStart.toNat < image.length → State.load cfg image = none)

/-! ### The interface of the core -/

/-- How many accesses one step issues, and in which order (R340): at most 2 fetch reads, then at most 15 data reads or
3 data writes, then at most one framebuffer call. -/
def Obligations.TransactionBounds : Prop :=
  ∀ s : State, ∃ fetches data calls : List Transaction, s.transactions = fetches ++ data ++ calls ∧
    fetches.all Transaction.isFetch = true ∧ fetches.length ≤ 2 ∧
      ((data.all Transaction.isDataRead = true ∧ data.length ≤ 15) ∨
        (data.all Transaction.isDataWrite = true ∧ data.length ≤ 3)) ∧
      calls.all Transaction.isFbCall = true ∧ calls.length ≤ 1

/-- The accesses a step issues account for every change of memory and framebuffer (R71, R340), and each data access
lies in memory (R77). -/
def Obligations.TransactionsAccountForStep : Prop :=
  ∀ s t : State, step s = .next t →
    t.mem = s.transactions.foldl (fun m a => a.onMemory s.cfg m) s.mem ∧
      t.fb = s.transactions.foldl (fun fb a => a.onFramebuffer s.cfg fb) s.fb ∧
        (∀ a b, Transaction.dataWrite a b ∈ s.transactions → a < s.cfg.memSize) ∧
          ∀ a, Transaction.dataRead a ∈ s.transactions → a < s.cfg.memSize
end

