-- ==== Sys2Proof/Laws/Encoding.lean ====
section
/-! SUPPORT. The fields of packed words (spec/30_encoding.md R101, R103). -/

namespace Sys2Proof

theorem getLsbD_packA (op : Nibble) (nnn : Addr12) (k : Nat) :
    (packA op nnn).getLsbD k = if k < 12 then nnn.getLsbD k else op.getLsbD (k - 12) :=
  BitVec.getLsbD_append

theorem getLsbD_packXK (op x : Nibble) (kk : Byte) (k : Nat) :
    (packXK op x kk).getLsbD k =
      if k < 8 then kk.getLsbD k else if k < 12 then x.getLsbD (k - 8) else op.getLsbD (k - 12) := by
  show (op ++ (x ++ kk)).getLsbD k = _
  rw [BitVec.getLsbD_append, BitVec.getLsbD_append]
  split_ifs <;> first | rfl | omega

theorem getLsbD_packXYN (op x y n : Nibble) (k : Nat) :
    (packXYN op x y n).getLsbD k =
      if k < 4 then n.getLsbD k else if k < 8 then y.getLsbD (k - 4)
      else if k < 12 then x.getLsbD (k - 8) else op.getLsbD (k - 12) := by
  show (op ++ (x ++ (y ++ n))).getLsbD k = _
  rw [BitVec.getLsbD_append, BitVec.getLsbD_append, BitVec.getLsbD_append]
  split_ifs <;> first | rfl | omega

@[simp] theorem opOf_packA (op : Nibble) (nnn : Addr12) : opOf (packA op nnn) = op := by
  apply BitVec.eq_of_getLsbD_eq
  intro k hk
  have bound : k < 4 := hk
  simp only [opOf, BitVec.getLsbD_extractLsb', getLsbD_packA, bound, decide_true, Bool.true_and]
  split_ifs <;> first | omega | (congr 1; omega)

@[simp] theorem nnnOf_packA (op : Nibble) (nnn : Addr12) : nnnOf (packA op nnn) = nnn := by
  apply BitVec.eq_of_getLsbD_eq
  intro k hk
  have bound : k < 12 := hk
  simp only [nnnOf, BitVec.getLsbD_extractLsb', getLsbD_packA, bound, decide_true, Bool.true_and]
  split_ifs <;> first | omega | (congr 1; omega)

@[simp] theorem opOf_packXK (op x : Nibble) (kk : Byte) : opOf (packXK op x kk) = op := by
  apply BitVec.eq_of_getLsbD_eq
  intro k hk
  have bound : k < 4 := hk
  simp only [opOf, BitVec.getLsbD_extractLsb', getLsbD_packXK, bound, decide_true, Bool.true_and]
  split_ifs <;> first | omega | (congr 1; omega)

@[simp] theorem xOf_packXK (op x : Nibble) (kk : Byte) : xOf (packXK op x kk) = x := by
  apply BitVec.eq_of_getLsbD_eq
  intro k hk
  have bound : k < 4 := hk
  simp only [xOf, BitVec.getLsbD_extractLsb', getLsbD_packXK, bound, decide_true, Bool.true_and]
  split_ifs <;> first | omega | (congr 1; omega)

@[simp] theorem kkOf_packXK (op x : Nibble) (kk : Byte) : kkOf (packXK op x kk) = kk := by
  apply BitVec.eq_of_getLsbD_eq
  intro k hk
  have bound : k < 8 := hk
  simp only [kkOf, BitVec.getLsbD_extractLsb', getLsbD_packXK, bound, decide_true, Bool.true_and]
  split_ifs <;> first | omega | (congr 1; omega)

@[simp] theorem opOf_packXYN (op x y n : Nibble) : opOf (packXYN op x y n) = op := by
  apply BitVec.eq_of_getLsbD_eq
  intro k hk
  have bound : k < 4 := hk
  simp only [opOf, BitVec.getLsbD_extractLsb', getLsbD_packXYN, bound, decide_true, Bool.true_and]
  split_ifs <;> first | omega | (congr 1; omega)

@[simp] theorem xOf_packXYN (op x y n : Nibble) : xOf (packXYN op x y n) = x := by
  apply BitVec.eq_of_getLsbD_eq
  intro k hk
  have bound : k < 4 := hk
  simp only [xOf, BitVec.getLsbD_extractLsb', getLsbD_packXYN, bound, decide_true, Bool.true_and]
  split_ifs <;> first | omega | (congr 1; omega)

@[simp] theorem yOf_packXYN (op x y n : Nibble) : yOf (packXYN op x y n) = y := by
  apply BitVec.eq_of_getLsbD_eq
  intro k hk
  have bound : k < 4 := hk
  simp only [yOf, BitVec.getLsbD_extractLsb', getLsbD_packXYN, bound, decide_true, Bool.true_and]
  split_ifs <;> first | omega | (congr 1; omega)

@[simp] theorem nOf_packXYN (op x y n : Nibble) : nOf (packXYN op x y n) = n := by
  apply BitVec.eq_of_getLsbD_eq
  intro k hk
  have bound : k < 4 := hk
  simp only [nOf, BitVec.getLsbD_extractLsb', getLsbD_packXYN, bound, decide_true, Bool.true_and]
  split_ifs <;> first | omega | (congr 1; omega)

/-- Bit `j` of a field that starts at `start` is bit `k = start + j` of the word. -/
theorem field_bit {w : Word} {start len j k : Nat} (h : j < len) (e : start + j = k) :
    (w.extractLsb' start len).getLsbD j = w.getLsbD k := by
  rw [BitVec.getLsbD_extractLsb', decide_eq_true h, Bool.true_and, e]

/-- A word is known by its fields (R101, R103). -/
theorem packA_fields (w : Word) : packA (opOf w) (nnnOf w) = w := by
  apply BitVec.eq_of_getLsbD_eq
  intro k hk
  rw [getLsbD_packA]
  split_ifs <;> exact field_bit (by omega) (by omega)

/-- A word is known by its fields (R101, R103). -/
theorem packXK_fields (w : Word) : packXK (opOf w) (xOf w) (kkOf w) = w := by
  apply BitVec.eq_of_getLsbD_eq
  intro k hk
  rw [getLsbD_packXK]
  split_ifs <;> exact field_bit (by omega) (by omega)

/-- A word is known by its fields (R101, R103). -/
theorem packXYN_fields (w : Word) : packXYN (opOf w) (xOf w) (yOf w) (nOf w) = w := by
  apply BitVec.eq_of_getLsbD_eq
  intro k hk
  rw [getLsbD_packXYN]
  split_ifs <;> exact field_bit (by omega) (by omega)

theorem packA_mask_F000 (op : Nibble) (nnn : Addr12) : packA op nnn &&& 0xF000 = packA op 0 := by
  apply BitVec.eq_of_getLsbD_eq
  intro k hk
  rw [BitVec.getLsbD_and, getLsbD_packA, getLsbD_packA]
  interval_cases k <;> simp

theorem packXK_mask_F000 (op x : Nibble) (kk : Byte) : packXK op x kk &&& 0xF000 = packXK op 0 0 := by
  apply BitVec.eq_of_getLsbD_eq
  intro k hk
  rw [BitVec.getLsbD_and, getLsbD_packXK, getLsbD_packXK]
  interval_cases k <;> simp

theorem packXK_mask_F0FF (op x : Nibble) (kk : Byte) : packXK op x kk &&& 0xF0FF = packXK op 0 kk := by
  apply BitVec.eq_of_getLsbD_eq
  intro k hk
  rw [BitVec.getLsbD_and, getLsbD_packXK, getLsbD_packXK]
  interval_cases k <;> simp

theorem packXYN_mask_F000 (op x y n : Nibble) : packXYN op x y n &&& 0xF000 = packXYN op 0 0 0 := by
  apply BitVec.eq_of_getLsbD_eq
  intro k hk
  rw [BitVec.getLsbD_and, getLsbD_packXYN, getLsbD_packXYN]
  interval_cases k <;> simp

theorem packXYN_mask_F00F (op x y n : Nibble) : packXYN op x y n &&& 0xF00F = packXYN op 0 0 n := by
  apply BitVec.eq_of_getLsbD_eq
  intro k hk
  rw [BitVec.getLsbD_and, getLsbD_packXYN, getLsbD_packXYN]
  interval_cases k <;> simp

/-- A nibble has one of sixteen values. -/
theorem nibble_cases (k : Nibble) :
    k = 0x0 ∨ k = 0x1 ∨ k = 0x2 ∨ k = 0x3 ∨ k = 0x4 ∨ k = 0x5 ∨ k = 0x6 ∨ k = 0x7 ∨
      k = 0x8 ∨ k = 0x9 ∨ k = 0xA ∨ k = 0xB ∨ k = 0xC ∨ k = 0xD ∨ k = 0xE ∨ k = 0xF := by
  revert k
  decide

/-! The primary dispatch (R104), value by value. -/

theorem decodeWord_op0 (strict : Bool) {w : Word} (h : opOf w = 0x0) :
    decodeWord strict w = decodeGroup0 strict w := by simp [decodeWord, h]

theorem decodeWord_op1 (strict : Bool) {w : Word} (h : opOf w = 0x1) :
    decodeWord strict w = .ok (.jp (nnnOf w)) := by simp [decodeWord, h]

theorem decodeWord_op2 (strict : Bool) {w : Word} (h : opOf w = 0x2) :
    decodeWord strict w = .ok (.call (nnnOf w)) := by simp [decodeWord, h]

theorem decodeWord_op3 (strict : Bool) {w : Word} (h : opOf w = 0x3) :
    decodeWord strict w = .ok (.seImm (xOf w) (kkOf w)) := by simp [decodeWord, h]

theorem decodeWord_op4 (strict : Bool) {w : Word} (h : opOf w = 0x4) :
    decodeWord strict w = .ok (.sneImm (xOf w) (kkOf w)) := by simp [decodeWord, h]

theorem decodeWord_op5 (strict : Bool) {w : Word} (h : opOf w = 0x5) :
    decodeWord strict w = decodeSkipReg strict w (.seReg (xOf w) (yOf w) (nOf w)) := by simp [decodeWord, h]

theorem decodeWord_op6 (strict : Bool) {w : Word} (h : opOf w = 0x6) :
    decodeWord strict w = .ok (.ldImm (xOf w) (kkOf w)) := by simp [decodeWord, h]

theorem decodeWord_op7 (strict : Bool) {w : Word} (h : opOf w = 0x7) :
    decodeWord strict w = .ok (.addImm (xOf w) (kkOf w)) := by simp [decodeWord, h]

theorem decodeWord_op8 (strict : Bool) {w : Word} (h : opOf w = 0x8) :
    decodeWord strict w = decodeGroup8 w := by simp [decodeWord, h]

theorem decodeWord_op9 (strict : Bool) {w : Word} (h : opOf w = 0x9) :
    decodeWord strict w = decodeSkipReg strict w (.sneReg (xOf w) (yOf w) (nOf w)) := by simp [decodeWord, h]

theorem decodeWord_opA (strict : Bool) {w : Word} (h : opOf w = 0xA) :
    decodeWord strict w = .ok (.ldI (nnnOf w)) := by simp [decodeWord, h]

theorem decodeWord_opB (strict : Bool) {w : Word} (h : opOf w = 0xB) :
    decodeWord strict w = .ok (.jpo (nnnOf w)) := by simp [decodeWord, h]

theorem decodeWord_opC (strict : Bool) {w : Word} (h : opOf w = 0xC) :
    decodeWord strict w = .ok (.rnd (xOf w) (kkOf w)) := by simp [decodeWord, h]

theorem decodeWord_opD (strict : Bool) {w : Word} (h : opOf w = 0xD) :
    decodeWord strict w = .ok (.drw (xOf w) (yOf w) (nOf w)) := by simp [decodeWord, h]

theorem decodeWord_opE (strict : Bool) {w : Word} (h : opOf w = 0xE) :
    decodeWord strict w = decodeGroupE w := by simp [decodeWord, h]

theorem decodeWord_opF (strict : Bool) {w : Word} (h : opOf w = 0xF) :
    decodeWord strict w = decodeGroupF w := by simp [decodeWord, h]

end Sys2Proof
end

