-- ==== Sys2Proof/Laws/Framebuffer.lean ====
section
/-! SUPPORT. The laws of the framebuffer (spec/60_exceptions.md R333). -/

namespace Sys2Proof.Machine

/-- After a clear every pixel is off. -/
@[simp] theorem Framebuffer.pixel_clear (fb : Framebuffer) (px py : Nat) : fb.clear.pixel px py = false := rfl

/-- A blank framebuffer has every pixel off. -/
@[simp] theorem Framebuffer.pixel_blank (px py : Nat) : Framebuffer.blank.pixel px py = false := rfl

theorem Framebuffer.pixel_iff (fb : Framebuffer) (px py : Nat) : fb.pixel px py = true ↔ (px, py) ∈ fb.on := by
  simp [Framebuffer.pixel]

theorem mem_insertPixel {l : List (Nat × Nat)} {p q : Nat × Nat} : q ∈ insertPixel l p ↔ q = p ∨ q ∈ l := by
  induction l with
  | nil => simp [insertPixel]
  | cons r rest ih =>
    unfold insertPixel
    split
    · simp
    · simp only [List.mem_cons, ih]
      tauto

/-- A toggle changes the pixel it names and no other. -/
theorem Framebuffer.pixel_toggle (fb : Framebuffer) (px py qx qy : Nat) :
    (fb.toggle px py).pixel qx qy = (fb.pixel qx qy ^^ decide (qx = px ∧ qy = py)) := by
  rw [Bool.eq_iff_iff, Framebuffer.pixel_iff]
  unfold Framebuffer.toggle
  by_cases same : qx = px ∧ qy = py
  · obtain ⟨rfl, rfl⟩ := same
    split
    · next on => simp [on]
    · next off => simp [mem_insertPixel, off]
  · have ne : (qx, qy) ≠ (px, py) := fun e => same (Prod.mk.inj e)
    split <;> simp [mem_insertPixel, ne, same, Framebuffer.pixel]

theorem before_total {p q : Nat × Nat} (h : before p q ≠ true) (ne : q ≠ p) : before q p = true := by
  have : ¬ (q.1 = p.1 ∧ q.2 = p.2) := fun e => ne (Prod.ext e.1 e.2)
  simp only [before, Bool.or_eq_true, Bool.and_eq_true, decide_eq_true_eq, beq_iff_eq, ne_eq] at h ⊢
  omega

theorem before_trans {p q r : Nat × Nat} (h : before p q = true) (h' : before q r = true) : before p r = true := by
  simp only [before, Bool.or_eq_true, Bool.and_eq_true, decide_eq_true_eq, beq_iff_eq] at h h' ⊢
  omega

theorem before_irrefl (p : Nat × Nat) : before p p ≠ true := by
  simp [before]

theorem insertPixel_ordered {l : List (Nat × Nat)} {p : Nat × Nat} (ordered : l.Pairwise fun q r => before q r = true)
    (fresh : p ∉ l) : (insertPixel l p).Pairwise fun q r => before q r = true := by
  induction l with
  | nil => simp [insertPixel]
  | cons q rest ih =>
    obtain ⟨head, tail⟩ := List.pairwise_cons.1 ordered
    unfold insertPixel
    split
    · next lt =>
      refine List.pairwise_cons.2 ⟨fun r hr => ?_, ordered⟩
      rcases List.mem_cons.1 hr with rfl | hr
      · exact lt
      · exact before_trans lt (head r hr)
    · next nlt =>
      refine List.pairwise_cons.2 ⟨fun r hr => ?_, ih tail fun h => fresh (by simp [h])⟩
      rcases mem_insertPixel.1 hr with rfl | hr
      · exact before_total nlt fun e => fresh (by simp [e])
      · exact head r hr

/-- A toggle keeps the canonical form. -/
theorem Framebuffer.toggle_wf {fb : Framebuffer} (h : fb.wf) (px py : Nat) : (fb.toggle px py).wf := by
  unfold Framebuffer.toggle
  split
  · exact h.filter _
  · next off => exact insertPixel_ordered h fun on => off ((fb.pixel_iff px py).2 on)

/-- A toggle of a pixel of the grid turns no other on. -/
theorem Framebuffer.toggle_within {fb : Framebuffer} {width height : Nat} (h : fb.within width height) {px py : Nat}
    (hx : px < width) (hy : py < height) : (fb.toggle px py).within width height := by
  unfold Framebuffer.toggle
  split
  · exact fun p hp => h p (List.mem_filter.1 hp).1
  · intro p hp
    rcases mem_insertPixel.1 hp with rfl | hp
    · exact ⟨hx, hy⟩
    · exact h p hp

theorem ordered_ext {l l' : List (Nat × Nat)} (h : l.Pairwise fun p q => before p q = true)
    (h' : l'.Pairwise fun p q => before p q = true) (same : ∀ p, p ∈ l ↔ p ∈ l') : l = l' := by
  have nodup {k : List (Nat × Nat)} (hk : k.Pairwise fun p q => before p q = true) : k.Nodup :=
    hk.imp (by rintro p q hb rfl; exact before_irrefl p hb)
  refine List.Perm.eq_of_pairwise (fun p q _ _ hb hb' => ?_) h h'
    ((List.perm_ext_iff_of_nodup (nodup h) (nodup h')).2 same)
  exact absurd (before_trans hb hb') (before_irrefl p)

/-- Two framebuffers in canonical form that agree on every pixel are the same data. -/
theorem Framebuffer.ext_pixel {fb fb' : Framebuffer} (h : fb.wf) (h' : fb'.wf)
    (same : ∀ px py, fb.pixel px py = fb'.pixel px py) : fb = fb' := by
  cases fb with | mk on =>
  cases fb' with | mk on' =>
  congr 1
  refine ordered_ext h h' fun p => ?_
  have := same p.1 p.2
  rw [Bool.eq_iff_iff, Framebuffer.pixel_iff, Framebuffer.pixel_iff] at this
  exact this

/-- Every pixel a sprite bit lands on is on the grid. -/
theorem place_onGrid {cfg : Config.Params} {x y c r : Nat} {p : Nat × Nat} (h : place cfg x y c r = some p) :
    p.1 < cfg.fbWidth ∧ p.2 < cfg.fbHeight := by
  unfold place at h
  simp only at h
  split at h
  · next on => cases h; exact on
  · cases h

theorem mem_rowPixels {cfg : Config.Params} {x y r : Nat} {b : Byte} {p : Nat × Nat} :
    p ∈ rowPixels cfg x y r b ↔ ∃ c < 8, b.getLsbD (7 - c) = true ∧ place cfg x y c r = some p := by
  simp [rowPixels, List.mem_filterMap]

theorem spritePixels_onGrid {cfg : Config.Params} {x y r : Nat} {bytes : List Byte} {p : Nat × Nat}
    (h : p ∈ spritePixels cfg x y r bytes) : p.1 < cfg.fbWidth ∧ p.2 < cfg.fbHeight := by
  induction bytes generalizing r with
  | nil => simp [spritePixels] at h
  | cons b rest ih =>
    rcases List.mem_append.1 h with h | h
    · obtain ⟨_, _, _, hp⟩ := mem_rowPixels.1 h
      exact place_onGrid hp
    · exact ih h

/-- Toggling pixels of the grid keeps the canonical form and the grid. -/
theorem Framebuffer.toggleAll_wf {fb : Framebuffer} {width height : Nat} (h : fb.wf) (hin : fb.within width height)
    {ps : List (Nat × Nat)} (on : ∀ p ∈ ps, p.1 < width ∧ p.2 < height) :
    (fb.toggleAll ps).1.wf ∧ (fb.toggleAll ps).1.within width height := by
  induction ps generalizing fb with
  | nil => exact ⟨h, hin⟩
  | cons p rest ih =>
    have hp := on p (by simp)
    exact ih (Framebuffer.toggle_wf h p.1 p.2) (Framebuffer.toggle_within hin hp.1 hp.2) fun q hq => on q (by simp [hq])

/-- A draw keeps the canonical form and the grid (R333). -/
theorem Framebuffer.render_wf {fb : Framebuffer} {cfg : Config.Params} (h : fb.wf)
    (hin : fb.within cfg.fbWidth cfg.fbHeight) (x y : Byte) (bytes : List Byte) :
    (fb.render cfg x y bytes).1.wf ∧ (fb.render cfg x y bytes).1.within cfg.fbWidth cfg.fbHeight :=
  Framebuffer.toggleAll_wf h hin fun _ hp => spritePixels_onGrid hp

/-- A pixel after toggles: changed exactly if it was toggled an odd number of times. -/
theorem Framebuffer.pixel_toggleAll (fb : Framebuffer) (ps : List (Nat × Nat)) (px py : Nat) :
    (fb.toggleAll ps).1.pixel px py = (fb.pixel px py ^^ decide (ps.count (px, py) % 2 = 1)) := by
  induction ps generalizing fb with
  | nil => simp [Framebuffer.toggleAll]
  | cons p rest ih =>
    rw [Framebuffer.toggleAll, ih, Framebuffer.pixel_toggle, List.count_cons, Bool.xor_assoc]
    congr 1
    by_cases e : p = (px, py)
    · subst e
      rcases Nat.mod_two_eq_zero_or_one (rest.count (px, py)) with h | h <;> simp [h, Nat.add_mod]
    · have : ¬ (px = p.1 ∧ py = p.2) := fun h => e (Prod.ext h.1.symm h.2.symm)
      simp [this, e]

/-- The toggles report a pixel that was on when it was toggled: one that was on before, or one toggled twice. -/
theorem Framebuffer.collided_toggleAll (fb : Framebuffer) (ps : List (Nat × Nat)) :
    (fb.toggleAll ps).2 = true ↔
      ∃ px py, (0 < ps.count (px, py) ∧ fb.pixel px py = true) ∨ 2 ≤ ps.count (px, py) := by
  induction ps generalizing fb with
  | nil => simp [Framebuffer.toggleAll]
  | cons p rest ih =>
    obtain ⟨x, y⟩ := p
    rw [Framebuffer.toggleAll, Bool.or_eq_true, ih]
    constructor
    · rintro (h | ⟨px, py, h⟩)
      · exact ⟨x, y, .inl ⟨by simp, h⟩⟩
      · refine ⟨px, py, ?_⟩
        rw [Framebuffer.pixel_toggle] at h
        rw [List.count_cons]
        by_cases e : px = x ∧ py = y
        · obtain ⟨rfl, rfl⟩ := e
          simp only [beq_self_eq_true, if_true]
          rcases h with h | h <;> (right; omega)
        · have ne : ¬ (x = px ∧ y = py) := fun h => e ⟨h.1.symm, h.2.symm⟩
          simpa [e, ne] using h
    · rintro ⟨px, py, h⟩
      rw [List.count_cons] at h
      by_cases e : px = x ∧ py = y
      · obtain ⟨rfl, rfl⟩ := e
        by_cases on : fb.pixel px py = true
        · exact .inl on
        · refine .inr ⟨px, py, .inl ⟨?_, by simp [Framebuffer.pixel_toggle, on]⟩⟩
          rcases h with h | h
          · exact absurd h.2 on
          · simp only [beq_self_eq_true, if_true] at h
            omega
      · have ne : ¬ (x = px ∧ y = py) := fun h => e ⟨h.1.symm, h.2.symm⟩
        refine .inr ⟨px, py, ?_⟩
        simpa [Framebuffer.pixel_toggle, e, ne] using h

end Sys2Proof.Machine
end

