-- ==== Sys2Proof/Laws/Memory.lean ====
section
/-! SUPPORT. The laws of memory: reads after writes, and that every operation keeps the canonical form. -/

namespace Sys2Proof.Machine

variable {cfg : Config.Params}

theorem Memory.read_eq_initial {m : Memory} {a : Nat} (h : ∀ c ∈ m, c.1 ≠ a) : m.read cfg a = initialByte cfg a := by
  induction m with
  | nil => rfl
  | cons c rest ih =>
    rw [Memory.read, if_neg (h c (by simp)), ih fun d hd => h d (by simp [hd])]

theorem Memory.read_insert_same (m : Memory) (a : Nat) (b : Byte) (h : ∀ c ∈ m, c.1 ≠ a) :
    (Memory.insert m a b).read cfg a = b := by
  induction m with
  | nil => simp [Memory.insert, Memory.read]
  | cons c rest ih =>
    have hc : c.1 ≠ a := h c (by simp)
    unfold Memory.insert
    split
    · simp [Memory.read]
    · rw [Memory.read, if_neg hc, ih fun d hd => h d (by simp [hd])]

theorem Memory.read_insert_ne (m : Memory) {a a' : Nat} (b : Byte) (h : a' ≠ a) :
    (Memory.insert m a b).read cfg a' = m.read cfg a' := by
  induction m with
  | nil => simp [Memory.insert, Memory.read, h.symm]
  | cons c rest ih =>
    unfold Memory.insert
    split
    · rw [Memory.read, if_neg h.symm]
    · rw [Memory.read, Memory.read, ih]

theorem Memory.read_filter_ne (m : Memory) {a a' : Nat} (h : a' ≠ a) :
    Memory.read cfg (m.filter fun c => c.1 != a) a' = m.read cfg a' := by
  induction m with
  | nil => rfl
  | cons c rest ih =>
    by_cases hc : c.1 = a
    · have hne : c.1 ≠ a' := fun e => h (e.symm.trans hc)
      simp [hc, Memory.read, ih, h.symm]
    · simp [hc, Memory.read, ih]

/-- A read after a write to the same address gives the byte written (R79). -/
@[simp] theorem Memory.read_write_same (m : Memory) (a : Nat) (b : Byte) : (m.write cfg a b).read cfg a = b := by
  unfold Memory.write
  split
  · next h => rw [h]; exact Memory.read_eq_initial (by simp)
  · exact Memory.read_insert_same _ a b (by simp)

/-- A write leaves every other address alone (R79). -/
theorem Memory.read_write_ne (m : Memory) {a a' : Nat} (b : Byte) (h : a' ≠ a) :
    (m.write cfg a b).read cfg a' = m.read cfg a' := by
  unfold Memory.write
  split
  · exact Memory.read_filter_ne m h
  · rw [Memory.read_insert_ne _ b h, Memory.read_filter_ne m h]

theorem Memory.mem_insert {m : Memory} {a : Nat} {b : Byte} {c : Host.Cell} (h : c ∈ Memory.insert m a b) :
    c = (a, b) ∨ c ∈ m := by
  induction m with
  | nil => exact .inl (by simpa [Memory.insert] using h)
  | cons d rest ih =>
    unfold Memory.insert at h
    split at h
    · simpa using h
    · rcases List.mem_cons.1 h with h | h
      · exact .inr (by simp [h])
      · exact (ih h).imp id fun h => by simp [h]

theorem Memory.rising_insert {m : Memory} {a : Nat} (b : Byte)
    (rising : m.Pairwise fun c d => c.1 < d.1) (fresh : ∀ c ∈ m, c.1 ≠ a) :
    (Memory.insert m a b).Pairwise fun c d => c.1 < d.1 := by
  induction m with
  | nil => simp [Memory.insert]
  | cons c rest ih =>
    obtain ⟨head, tail⟩ := List.pairwise_cons.1 rising
    have hne := fresh c (by simp)
    unfold Memory.insert
    split
    · next lt =>
      refine List.pairwise_cons.2 ⟨fun d hd => ?_, rising⟩
      rcases List.mem_cons.1 hd with rfl | hd
      · exact lt
      · exact Nat.lt_trans lt (head d hd)
    · next nlt =>
      refine List.pairwise_cons.2 ⟨fun d hd => ?_, ih tail fun d hd => fresh d (by simp [hd])⟩
      rcases Memory.mem_insert hd with rfl | hd
      · show c.1 < a
        have : ¬ a < c.1 := nlt
        omega
      · exact head d hd

/-- A write keeps the canonical form. -/
theorem Memory.write_wf {m : Memory} (h : m.wf cfg) (a : Nat) (b : Byte) : (m.write cfg a b).wf cfg := by
  have rising := h.1.filter (fun c => c.1 != a)
  have listed : ∀ c ∈ m.filter (fun c => c.1 != a), c.2 ≠ initialByte cfg c.1 :=
    fun c hc => h.2 c (List.mem_filter.1 hc).1
  unfold Memory.write
  split
  · exact ⟨rising, listed⟩
  · next hb =>
    refine ⟨Memory.rising_insert b rising (by simp), fun c hc => ?_⟩
    rcases Memory.mem_insert hc with rfl | hc
    · exact hb
    · exact listed c hc

/-- A write inside a memory of `size` bytes lists nothing outside it. -/
theorem Memory.write_within {m : Memory} {size : Nat} (h : m.within size) {a : Nat} (b : Byte) (ha : a < size) :
    (m.write cfg a b).within size := by
  intro c hc
  have listed : ∀ c ∈ m.filter (fun c => c.1 != a), c.1 < size := fun c hc => h c (List.mem_filter.1 hc).1
  unfold Memory.write at hc
  split at hc
  · exact listed c hc
  · rcases Memory.mem_insert hc with rfl | hc
    · exact ha
    · exact listed c hc

/-- Writing a run of bytes keeps the canonical form. -/
theorem Memory.writeBytes_wf {m : Memory} (h : m.wf cfg) (a : Nat) (bs : List Byte) : (m.writeBytes cfg a bs).wf cfg := by
  induction bs generalizing m a with
  | nil => exact h
  | cons b bs ih => exact ih (Memory.write_wf h a b) (a + 1)

/-- Writing a run of bytes that fits lists nothing outside memory. -/
theorem Memory.writeBytes_within {m : Memory} {size : Nat} (h : m.within size) (a : Nat) (bs : List Byte)
    (fits : a + bs.length ≤ size) : (m.writeBytes cfg a bs).within size := by
  induction bs generalizing m a with
  | nil => exact h
  | cons b bs ih =>
    simp only [List.length_cons] at fits
    exact ih (Memory.write_within h b (by omega)) (a + 1) (by omega)

/-- A run of bytes reads back below the address after it. -/
theorem Memory.read_writeBytes_below (m : Memory) {a a' : Nat} (bs : List Byte) (h : a' < a) :
    (m.writeBytes cfg a bs).read cfg a' = m.read cfg a' := by
  induction bs generalizing m a with
  | nil => rfl
  | cons b bs ih => rw [Memory.writeBytes, ih _ (by omega), Memory.read_write_ne _ b (by omega)]

/-- A byte read after a row of bytes was written: the row's byte inside it, the old byte outside. -/
theorem Memory.read_writeBytes (m : Memory) (a : Nat) (bs : List Byte) (a' : Nat) :
    (m.writeBytes cfg a bs).read cfg a' = if h : a ≤ a' ∧ a' - a < bs.length then bs[a' - a]'h.2 else m.read cfg a' := by
  induction bs generalizing m a with
  | nil => simp [Memory.writeBytes]
  | cons b bs ih =>
    rw [Memory.writeBytes, ih]
    by_cases hx : a' = a
    · subst hx
      simp [Memory.read_write_same]
    · rw [Memory.read_write_ne _ _ hx]
      by_cases h1 : a + 1 ≤ a' ∧ a' - (a + 1) < bs.length
      · have e : a' - a = a' - (a + 1) + 1 := by omega
        rw [dif_pos h1, dif_pos ⟨by omega, by simp; omega⟩]
        simp [e]
      · rw [dif_neg h1, dif_neg]
        simp
        omega

@[simp] theorem Memory.length_readBytes (m : Memory) (a n : Nat) : (m.readBytes cfg a n).length = n := by
  induction n generalizing a with
  | zero => rfl
  | succ n ih => simp [Memory.readBytes, ih]

end Sys2Proof.Machine
end

