-- ==== Sys2Proof/Laws/State.lean ====
section
/-! SUPPORT. What every update of the state does to every field, so that no proof unfolds a record update. -/

namespace Sys2Proof.Machine

@[simp] theorem State.setPc_cfg (s : State) (a : Word) : (s.setPc a).cfg = s.cfg := rfl
@[simp] theorem State.setPc_v (s : State) (a : Word) : (s.setPc a).v = s.v := rfl
@[simp] theorem State.setPc_i (s : State) (a : Word) : (s.setPc a).i = s.i := rfl
@[simp] theorem State.setPc_pc (s : State) (a : Word) : (s.setPc a).pc = a := rfl
@[simp] theorem State.setPc_sp (s : State) (a : Word) : (s.setPc a).sp = s.sp := rfl
@[simp] theorem State.setPc_stack (s : State) (a : Word) : (s.setPc a).stack = s.stack := rfl
@[simp] theorem State.setPc_dt (s : State) (a : Word) : (s.setPc a).dt = s.dt := rfl
@[simp] theorem State.setPc_st (s : State) (a : Word) : (s.setPc a).st = s.st := rfl
@[simp] theorem State.setPc_key (s : State) (a : Word) : (s.setPc a).key = s.key := rfl
@[simp] theorem State.setPc_fontBase (s : State) (a : Word) : (s.setPc a).fontBase = s.fontBase := rfl
@[simp] theorem State.setPc_mem (s : State) (a : Word) : (s.setPc a).mem = s.mem := rfl
@[simp] theorem State.setPc_fb (s : State) (a : Word) : (s.setPc a).fb = s.fb := rfl
@[simp] theorem State.setPc_phase (s : State) (a : Word) : (s.setPc a).phase = s.phase := rfl
@[simp] theorem State.setPc_status (s : State) (a : Word) : (s.setPc a).status = s.status := rfl
@[simp] theorem State.setPc_faultCause (s : State) (a : Word) : (s.setPc a).faultCause = s.faultCause := rfl
@[simp] theorem State.setPc_faultInfo (s : State) (a : Word) : (s.setPc a).faultInfo = s.faultInfo := rfl
@[simp] theorem State.setPc_inputs (s : State) (a : Word) : (s.setPc a).inputs = s.inputs := rfl
@[simp] theorem State.setPc_draws (s : State) (a : Word) : (s.setPc a).draws = s.draws := rfl

@[simp] theorem State.setI_cfg (s : State) (a : Word) : (s.setI a).cfg = s.cfg := rfl
@[simp] theorem State.setI_v (s : State) (a : Word) : (s.setI a).v = s.v := rfl
@[simp] theorem State.setI_i (s : State) (a : Word) : (s.setI a).i = a := rfl
@[simp] theorem State.setI_pc (s : State) (a : Word) : (s.setI a).pc = s.pc := rfl
@[simp] theorem State.setI_sp (s : State) (a : Word) : (s.setI a).sp = s.sp := rfl
@[simp] theorem State.setI_stack (s : State) (a : Word) : (s.setI a).stack = s.stack := rfl
@[simp] theorem State.setI_dt (s : State) (a : Word) : (s.setI a).dt = s.dt := rfl
@[simp] theorem State.setI_st (s : State) (a : Word) : (s.setI a).st = s.st := rfl
@[simp] theorem State.setI_key (s : State) (a : Word) : (s.setI a).key = s.key := rfl
@[simp] theorem State.setI_fontBase (s : State) (a : Word) : (s.setI a).fontBase = s.fontBase := rfl
@[simp] theorem State.setI_mem (s : State) (a : Word) : (s.setI a).mem = s.mem := rfl
@[simp] theorem State.setI_fb (s : State) (a : Word) : (s.setI a).fb = s.fb := rfl
@[simp] theorem State.setI_phase (s : State) (a : Word) : (s.setI a).phase = s.phase := rfl
@[simp] theorem State.setI_status (s : State) (a : Word) : (s.setI a).status = s.status := rfl
@[simp] theorem State.setI_faultCause (s : State) (a : Word) : (s.setI a).faultCause = s.faultCause := rfl
@[simp] theorem State.setI_faultInfo (s : State) (a : Word) : (s.setI a).faultInfo = s.faultInfo := rfl
@[simp] theorem State.setI_inputs (s : State) (a : Word) : (s.setI a).inputs = s.inputs := rfl
@[simp] theorem State.setI_draws (s : State) (a : Word) : (s.setI a).draws = s.draws := rfl

@[simp] theorem State.setDt_cfg (s : State) (b : Byte) : (s.setDt b).cfg = s.cfg := rfl
@[simp] theorem State.setDt_v (s : State) (b : Byte) : (s.setDt b).v = s.v := rfl
@[simp] theorem State.setDt_i (s : State) (b : Byte) : (s.setDt b).i = s.i := rfl
@[simp] theorem State.setDt_pc (s : State) (b : Byte) : (s.setDt b).pc = s.pc := rfl
@[simp] theorem State.setDt_sp (s : State) (b : Byte) : (s.setDt b).sp = s.sp := rfl
@[simp] theorem State.setDt_stack (s : State) (b : Byte) : (s.setDt b).stack = s.stack := rfl
@[simp] theorem State.setDt_dt (s : State) (b : Byte) : (s.setDt b).dt = b := rfl
@[simp] theorem State.setDt_st (s : State) (b : Byte) : (s.setDt b).st = s.st := rfl
@[simp] theorem State.setDt_key (s : State) (b : Byte) : (s.setDt b).key = s.key := rfl
@[simp] theorem State.setDt_fontBase (s : State) (b : Byte) : (s.setDt b).fontBase = s.fontBase := rfl
@[simp] theorem State.setDt_mem (s : State) (b : Byte) : (s.setDt b).mem = s.mem := rfl
@[simp] theorem State.setDt_fb (s : State) (b : Byte) : (s.setDt b).fb = s.fb := rfl
@[simp] theorem State.setDt_phase (s : State) (b : Byte) : (s.setDt b).phase = s.phase := rfl
@[simp] theorem State.setDt_status (s : State) (b : Byte) : (s.setDt b).status = s.status := rfl
@[simp] theorem State.setDt_faultCause (s : State) (b : Byte) : (s.setDt b).faultCause = s.faultCause := rfl
@[simp] theorem State.setDt_faultInfo (s : State) (b : Byte) : (s.setDt b).faultInfo = s.faultInfo := rfl
@[simp] theorem State.setDt_inputs (s : State) (b : Byte) : (s.setDt b).inputs = s.inputs := rfl
@[simp] theorem State.setDt_draws (s : State) (b : Byte) : (s.setDt b).draws = s.draws := rfl

@[simp] theorem State.setSt_cfg (s : State) (b : Byte) : (s.setSt b).cfg = s.cfg := rfl
@[simp] theorem State.setSt_v (s : State) (b : Byte) : (s.setSt b).v = s.v := rfl
@[simp] theorem State.setSt_i (s : State) (b : Byte) : (s.setSt b).i = s.i := rfl
@[simp] theorem State.setSt_pc (s : State) (b : Byte) : (s.setSt b).pc = s.pc := rfl
@[simp] theorem State.setSt_sp (s : State) (b : Byte) : (s.setSt b).sp = s.sp := rfl
@[simp] theorem State.setSt_stack (s : State) (b : Byte) : (s.setSt b).stack = s.stack := rfl
@[simp] theorem State.setSt_dt (s : State) (b : Byte) : (s.setSt b).dt = s.dt := rfl
@[simp] theorem State.setSt_st (s : State) (b : Byte) : (s.setSt b).st = b := rfl
@[simp] theorem State.setSt_key (s : State) (b : Byte) : (s.setSt b).key = s.key := rfl
@[simp] theorem State.setSt_fontBase (s : State) (b : Byte) : (s.setSt b).fontBase = s.fontBase := rfl
@[simp] theorem State.setSt_mem (s : State) (b : Byte) : (s.setSt b).mem = s.mem := rfl
@[simp] theorem State.setSt_fb (s : State) (b : Byte) : (s.setSt b).fb = s.fb := rfl
@[simp] theorem State.setSt_phase (s : State) (b : Byte) : (s.setSt b).phase = s.phase := rfl
@[simp] theorem State.setSt_status (s : State) (b : Byte) : (s.setSt b).status = s.status := rfl
@[simp] theorem State.setSt_faultCause (s : State) (b : Byte) : (s.setSt b).faultCause = s.faultCause := rfl
@[simp] theorem State.setSt_faultInfo (s : State) (b : Byte) : (s.setSt b).faultInfo = s.faultInfo := rfl
@[simp] theorem State.setSt_inputs (s : State) (b : Byte) : (s.setSt b).inputs = s.inputs := rfl
@[simp] theorem State.setSt_draws (s : State) (b : Byte) : (s.setSt b).draws = s.draws := rfl

@[simp] theorem State.setKey_cfg (s : State) (b : Byte) : (s.setKey b).cfg = s.cfg := rfl
@[simp] theorem State.setKey_v (s : State) (b : Byte) : (s.setKey b).v = s.v := rfl
@[simp] theorem State.setKey_i (s : State) (b : Byte) : (s.setKey b).i = s.i := rfl
@[simp] theorem State.setKey_pc (s : State) (b : Byte) : (s.setKey b).pc = s.pc := rfl
@[simp] theorem State.setKey_sp (s : State) (b : Byte) : (s.setKey b).sp = s.sp := rfl
@[simp] theorem State.setKey_stack (s : State) (b : Byte) : (s.setKey b).stack = s.stack := rfl
@[simp] theorem State.setKey_dt (s : State) (b : Byte) : (s.setKey b).dt = s.dt := rfl
@[simp] theorem State.setKey_st (s : State) (b : Byte) : (s.setKey b).st = s.st := rfl
@[simp] theorem State.setKey_key (s : State) (b : Byte) : (s.setKey b).key = b := rfl
@[simp] theorem State.setKey_fontBase (s : State) (b : Byte) : (s.setKey b).fontBase = s.fontBase := rfl
@[simp] theorem State.setKey_mem (s : State) (b : Byte) : (s.setKey b).mem = s.mem := rfl
@[simp] theorem State.setKey_fb (s : State) (b : Byte) : (s.setKey b).fb = s.fb := rfl
@[simp] theorem State.setKey_phase (s : State) (b : Byte) : (s.setKey b).phase = s.phase := rfl
@[simp] theorem State.setKey_status (s : State) (b : Byte) : (s.setKey b).status = s.status := rfl
@[simp] theorem State.setKey_faultCause (s : State) (b : Byte) : (s.setKey b).faultCause = s.faultCause := rfl
@[simp] theorem State.setKey_faultInfo (s : State) (b : Byte) : (s.setKey b).faultInfo = s.faultInfo := rfl
@[simp] theorem State.setKey_inputs (s : State) (b : Byte) : (s.setKey b).inputs = s.inputs := rfl
@[simp] theorem State.setKey_draws (s : State) (b : Byte) : (s.setKey b).draws = s.draws := rfl

@[simp] theorem State.setFb_cfg (s : State) (fb : Framebuffer) : (s.setFb fb).cfg = s.cfg := rfl
@[simp] theorem State.setFb_v (s : State) (fb : Framebuffer) : (s.setFb fb).v = s.v := rfl
@[simp] theorem State.setFb_i (s : State) (fb : Framebuffer) : (s.setFb fb).i = s.i := rfl
@[simp] theorem State.setFb_pc (s : State) (fb : Framebuffer) : (s.setFb fb).pc = s.pc := rfl
@[simp] theorem State.setFb_sp (s : State) (fb : Framebuffer) : (s.setFb fb).sp = s.sp := rfl
@[simp] theorem State.setFb_stack (s : State) (fb : Framebuffer) : (s.setFb fb).stack = s.stack := rfl
@[simp] theorem State.setFb_dt (s : State) (fb : Framebuffer) : (s.setFb fb).dt = s.dt := rfl
@[simp] theorem State.setFb_st (s : State) (fb : Framebuffer) : (s.setFb fb).st = s.st := rfl
@[simp] theorem State.setFb_key (s : State) (fb : Framebuffer) : (s.setFb fb).key = s.key := rfl
@[simp] theorem State.setFb_fontBase (s : State) (fb : Framebuffer) : (s.setFb fb).fontBase = s.fontBase := rfl
@[simp] theorem State.setFb_mem (s : State) (fb : Framebuffer) : (s.setFb fb).mem = s.mem := rfl
@[simp] theorem State.setFb_fb (s : State) (fb : Framebuffer) : (s.setFb fb).fb = fb := rfl
@[simp] theorem State.setFb_phase (s : State) (fb : Framebuffer) : (s.setFb fb).phase = s.phase := rfl
@[simp] theorem State.setFb_status (s : State) (fb : Framebuffer) : (s.setFb fb).status = s.status := rfl
@[simp] theorem State.setFb_faultCause (s : State) (fb : Framebuffer) : (s.setFb fb).faultCause = s.faultCause := rfl
@[simp] theorem State.setFb_faultInfo (s : State) (fb : Framebuffer) : (s.setFb fb).faultInfo = s.faultInfo := rfl
@[simp] theorem State.setFb_inputs (s : State) (fb : Framebuffer) : (s.setFb fb).inputs = s.inputs := rfl
@[simp] theorem State.setFb_draws (s : State) (fb : Framebuffer) : (s.setFb fb).draws = s.draws := rfl

@[simp] theorem State.setPhase_cfg (s : State) (p : Phase) : (s.setPhase p).cfg = s.cfg := rfl
@[simp] theorem State.setPhase_v (s : State) (p : Phase) : (s.setPhase p).v = s.v := rfl
@[simp] theorem State.setPhase_i (s : State) (p : Phase) : (s.setPhase p).i = s.i := rfl
@[simp] theorem State.setPhase_pc (s : State) (p : Phase) : (s.setPhase p).pc = s.pc := rfl
@[simp] theorem State.setPhase_sp (s : State) (p : Phase) : (s.setPhase p).sp = s.sp := rfl
@[simp] theorem State.setPhase_stack (s : State) (p : Phase) : (s.setPhase p).stack = s.stack := rfl
@[simp] theorem State.setPhase_dt (s : State) (p : Phase) : (s.setPhase p).dt = s.dt := rfl
@[simp] theorem State.setPhase_st (s : State) (p : Phase) : (s.setPhase p).st = s.st := rfl
@[simp] theorem State.setPhase_key (s : State) (p : Phase) : (s.setPhase p).key = s.key := rfl
@[simp] theorem State.setPhase_fontBase (s : State) (p : Phase) : (s.setPhase p).fontBase = s.fontBase := rfl
@[simp] theorem State.setPhase_mem (s : State) (p : Phase) : (s.setPhase p).mem = s.mem := rfl
@[simp] theorem State.setPhase_fb (s : State) (p : Phase) : (s.setPhase p).fb = s.fb := rfl
@[simp] theorem State.setPhase_phase (s : State) (p : Phase) : (s.setPhase p).phase = p := rfl
@[simp] theorem State.setPhase_status (s : State) (p : Phase) : (s.setPhase p).status = s.status := rfl
@[simp] theorem State.setPhase_faultCause (s : State) (p : Phase) : (s.setPhase p).faultCause = s.faultCause := rfl
@[simp] theorem State.setPhase_faultInfo (s : State) (p : Phase) : (s.setPhase p).faultInfo = s.faultInfo := rfl
@[simp] theorem State.setPhase_inputs (s : State) (p : Phase) : (s.setPhase p).inputs = s.inputs := rfl
@[simp] theorem State.setPhase_draws (s : State) (p : Phase) : (s.setPhase p).draws = s.draws := rfl

@[simp] theorem State.memWrite_cfg (s : State) (a : Nat) (b : Byte) : (s.memWrite a b).cfg = s.cfg := rfl
@[simp] theorem State.memWrite_v (s : State) (a : Nat) (b : Byte) : (s.memWrite a b).v = s.v := rfl
@[simp] theorem State.memWrite_i (s : State) (a : Nat) (b : Byte) : (s.memWrite a b).i = s.i := rfl
@[simp] theorem State.memWrite_pc (s : State) (a : Nat) (b : Byte) : (s.memWrite a b).pc = s.pc := rfl
@[simp] theorem State.memWrite_sp (s : State) (a : Nat) (b : Byte) : (s.memWrite a b).sp = s.sp := rfl
@[simp] theorem State.memWrite_stack (s : State) (a : Nat) (b : Byte) : (s.memWrite a b).stack = s.stack := rfl
@[simp] theorem State.memWrite_dt (s : State) (a : Nat) (b : Byte) : (s.memWrite a b).dt = s.dt := rfl
@[simp] theorem State.memWrite_st (s : State) (a : Nat) (b : Byte) : (s.memWrite a b).st = s.st := rfl
@[simp] theorem State.memWrite_key (s : State) (a : Nat) (b : Byte) : (s.memWrite a b).key = s.key := rfl
@[simp] theorem State.memWrite_fontBase (s : State) (a : Nat) (b : Byte) : (s.memWrite a b).fontBase = s.fontBase := rfl
@[simp] theorem State.memWrite_mem (s : State) (a : Nat) (b : Byte) : (s.memWrite a b).mem = s.mem.write s.cfg a b := rfl
@[simp] theorem State.memWrite_fb (s : State) (a : Nat) (b : Byte) : (s.memWrite a b).fb = s.fb := rfl
@[simp] theorem State.memWrite_phase (s : State) (a : Nat) (b : Byte) : (s.memWrite a b).phase = s.phase := rfl
@[simp] theorem State.memWrite_status (s : State) (a : Nat) (b : Byte) : (s.memWrite a b).status = s.status := rfl
@[simp] theorem State.memWrite_faultCause (s : State) (a : Nat) (b : Byte) : (s.memWrite a b).faultCause = s.faultCause := rfl
@[simp] theorem State.memWrite_faultInfo (s : State) (a : Nat) (b : Byte) : (s.memWrite a b).faultInfo = s.faultInfo := rfl
@[simp] theorem State.memWrite_inputs (s : State) (a : Nat) (b : Byte) : (s.memWrite a b).inputs = s.inputs := rfl
@[simp] theorem State.memWrite_draws (s : State) (a : Nat) (b : Byte) : (s.memWrite a b).draws = s.draws := rfl

@[simp] theorem State.advance_cfg (s : State) : (s.advance).cfg = s.cfg := rfl
@[simp] theorem State.advance_v (s : State) : (s.advance).v = s.v := rfl
@[simp] theorem State.advance_i (s : State) : (s.advance).i = s.i := rfl
@[simp] theorem State.advance_pc (s : State) : (s.advance).pc = s.pc + 2 := rfl
@[simp] theorem State.advance_sp (s : State) : (s.advance).sp = s.sp := rfl
@[simp] theorem State.advance_stack (s : State) : (s.advance).stack = s.stack := rfl
@[simp] theorem State.advance_dt (s : State) : (s.advance).dt = s.dt := rfl
@[simp] theorem State.advance_st (s : State) : (s.advance).st = s.st := rfl
@[simp] theorem State.advance_key (s : State) : (s.advance).key = s.key := rfl
@[simp] theorem State.advance_fontBase (s : State) : (s.advance).fontBase = s.fontBase := rfl
@[simp] theorem State.advance_mem (s : State) : (s.advance).mem = s.mem := rfl
@[simp] theorem State.advance_fb (s : State) : (s.advance).fb = s.fb := rfl
@[simp] theorem State.advance_phase (s : State) : (s.advance).phase = s.phase := rfl
@[simp] theorem State.advance_status (s : State) : (s.advance).status = .advance := rfl
@[simp] theorem State.advance_faultCause (s : State) : (s.advance).faultCause = s.faultCause := rfl
@[simp] theorem State.advance_faultInfo (s : State) : (s.advance).faultInfo = s.faultInfo := rfl
@[simp] theorem State.advance_inputs (s : State) : (s.advance).inputs = s.inputs := rfl
@[simp] theorem State.advance_draws (s : State) : (s.advance).draws = s.draws := rfl

@[simp] theorem State.alreadySet_cfg (s : State) : (s.alreadySet).cfg = s.cfg := rfl
@[simp] theorem State.alreadySet_v (s : State) : (s.alreadySet).v = s.v := rfl
@[simp] theorem State.alreadySet_i (s : State) : (s.alreadySet).i = s.i := rfl
@[simp] theorem State.alreadySet_pc (s : State) : (s.alreadySet).pc = s.pc := rfl
@[simp] theorem State.alreadySet_sp (s : State) : (s.alreadySet).sp = s.sp := rfl
@[simp] theorem State.alreadySet_stack (s : State) : (s.alreadySet).stack = s.stack := rfl
@[simp] theorem State.alreadySet_dt (s : State) : (s.alreadySet).dt = s.dt := rfl
@[simp] theorem State.alreadySet_st (s : State) : (s.alreadySet).st = s.st := rfl
@[simp] theorem State.alreadySet_key (s : State) : (s.alreadySet).key = s.key := rfl
@[simp] theorem State.alreadySet_fontBase (s : State) : (s.alreadySet).fontBase = s.fontBase := rfl
@[simp] theorem State.alreadySet_mem (s : State) : (s.alreadySet).mem = s.mem := rfl
@[simp] theorem State.alreadySet_fb (s : State) : (s.alreadySet).fb = s.fb := rfl
@[simp] theorem State.alreadySet_phase (s : State) : (s.alreadySet).phase = s.phase := rfl
@[simp] theorem State.alreadySet_status (s : State) : (s.alreadySet).status = .alreadySet := rfl
@[simp] theorem State.alreadySet_faultCause (s : State) : (s.alreadySet).faultCause = s.faultCause := rfl
@[simp] theorem State.alreadySet_faultInfo (s : State) : (s.alreadySet).faultInfo = s.faultInfo := rfl
@[simp] theorem State.alreadySet_inputs (s : State) : (s.alreadySet).inputs = s.inputs := rfl
@[simp] theorem State.alreadySet_draws (s : State) : (s.alreadySet).draws = s.draws := rfl

@[simp] theorem State.raise_cfg (s : State) (cause : FaultCause) (info : Word) : (s.raise cause info).cfg = s.cfg := rfl
@[simp] theorem State.raise_v (s : State) (cause : FaultCause) (info : Word) : (s.raise cause info).v = s.v := rfl
@[simp] theorem State.raise_i (s : State) (cause : FaultCause) (info : Word) : (s.raise cause info).i = s.i := rfl
@[simp] theorem State.raise_pc (s : State) (cause : FaultCause) (info : Word) : (s.raise cause info).pc = pcAfterFault s.cfg.failPolicy s.pc := rfl
@[simp] theorem State.raise_sp (s : State) (cause : FaultCause) (info : Word) : (s.raise cause info).sp = s.sp := rfl
@[simp] theorem State.raise_stack (s : State) (cause : FaultCause) (info : Word) : (s.raise cause info).stack = s.stack := rfl
@[simp] theorem State.raise_dt (s : State) (cause : FaultCause) (info : Word) : (s.raise cause info).dt = s.dt := rfl
@[simp] theorem State.raise_st (s : State) (cause : FaultCause) (info : Word) : (s.raise cause info).st = s.st := rfl
@[simp] theorem State.raise_key (s : State) (cause : FaultCause) (info : Word) : (s.raise cause info).key = s.key := rfl
@[simp] theorem State.raise_fontBase (s : State) (cause : FaultCause) (info : Word) : (s.raise cause info).fontBase = s.fontBase := rfl
@[simp] theorem State.raise_mem (s : State) (cause : FaultCause) (info : Word) : (s.raise cause info).mem = s.mem := rfl
@[simp] theorem State.raise_fb (s : State) (cause : FaultCause) (info : Word) : (s.raise cause info).fb = s.fb := rfl
@[simp] theorem State.raise_phase (s : State) (cause : FaultCause) (info : Word) : (s.raise cause info).phase = phaseAfterFault s.cfg.failPolicy s.phase := rfl
@[simp] theorem State.raise_status (s : State) (cause : FaultCause) (info : Word) : (s.raise cause info).status = .failed := rfl
@[simp] theorem State.raise_faultCause (s : State) (cause : FaultCause) (info : Word) : (s.raise cause info).faultCause = cause := rfl
@[simp] theorem State.raise_faultInfo (s : State) (cause : FaultCause) (info : Word) : (s.raise cause info).faultInfo = info := rfl
@[simp] theorem State.raise_inputs (s : State) (cause : FaultCause) (info : Word) : (s.raise cause info).inputs = s.inputs := rfl
@[simp] theorem State.raise_draws (s : State) (cause : FaultCause) (info : Word) : (s.raise cause info).draws = s.draws := rfl

@[simp] theorem State.writeV_cfg (s : State) (x : Nibble) (b : Byte) : (s.writeV x b).cfg = s.cfg := rfl
theorem State.writeV_v (s : State) (x : Nibble) (b : Byte) : (s.writeV x b).v = s.v.set x.toNat b x.isLt := rfl
@[simp] theorem State.writeV_i (s : State) (x : Nibble) (b : Byte) : (s.writeV x b).i = s.i := rfl
@[simp] theorem State.writeV_pc (s : State) (x : Nibble) (b : Byte) : (s.writeV x b).pc = s.pc := rfl
@[simp] theorem State.writeV_sp (s : State) (x : Nibble) (b : Byte) : (s.writeV x b).sp = s.sp := rfl
@[simp] theorem State.writeV_stack (s : State) (x : Nibble) (b : Byte) : (s.writeV x b).stack = s.stack := rfl
@[simp] theorem State.writeV_dt (s : State) (x : Nibble) (b : Byte) : (s.writeV x b).dt = s.dt := rfl
@[simp] theorem State.writeV_st (s : State) (x : Nibble) (b : Byte) : (s.writeV x b).st = s.st := rfl
@[simp] theorem State.writeV_key (s : State) (x : Nibble) (b : Byte) : (s.writeV x b).key = s.key := rfl
@[simp] theorem State.writeV_fontBase (s : State) (x : Nibble) (b : Byte) : (s.writeV x b).fontBase = s.fontBase := rfl
@[simp] theorem State.writeV_mem (s : State) (x : Nibble) (b : Byte) : (s.writeV x b).mem = s.mem := rfl
@[simp] theorem State.writeV_fb (s : State) (x : Nibble) (b : Byte) : (s.writeV x b).fb = s.fb := rfl
@[simp] theorem State.writeV_phase (s : State) (x : Nibble) (b : Byte) : (s.writeV x b).phase = s.phase := rfl
@[simp] theorem State.writeV_status (s : State) (x : Nibble) (b : Byte) : (s.writeV x b).status = s.status := rfl
@[simp] theorem State.writeV_faultCause (s : State) (x : Nibble) (b : Byte) : (s.writeV x b).faultCause = s.faultCause := rfl
@[simp] theorem State.writeV_faultInfo (s : State) (x : Nibble) (b : Byte) : (s.writeV x b).faultInfo = s.faultInfo := rfl
@[simp] theorem State.writeV_inputs (s : State) (x : Nibble) (b : Byte) : (s.writeV x b).inputs = s.inputs := rfl
@[simp] theorem State.writeV_draws (s : State) (x : Nibble) (b : Byte) : (s.writeV x b).draws = s.draws := rfl

@[simp] theorem State.writeFlag_cfg (s : State) (c : Bool) : (s.writeFlag c).cfg = s.cfg := rfl
@[simp] theorem State.writeFlag_v (s : State) (c : Bool) : (s.writeFlag c).v = (s.writeV vf (flagByte c)).v := rfl
@[simp] theorem State.writeFlag_i (s : State) (c : Bool) : (s.writeFlag c).i = s.i := rfl
@[simp] theorem State.writeFlag_pc (s : State) (c : Bool) : (s.writeFlag c).pc = s.pc := rfl
@[simp] theorem State.writeFlag_sp (s : State) (c : Bool) : (s.writeFlag c).sp = s.sp := rfl
@[simp] theorem State.writeFlag_stack (s : State) (c : Bool) : (s.writeFlag c).stack = s.stack := rfl
@[simp] theorem State.writeFlag_dt (s : State) (c : Bool) : (s.writeFlag c).dt = s.dt := rfl
@[simp] theorem State.writeFlag_st (s : State) (c : Bool) : (s.writeFlag c).st = s.st := rfl
@[simp] theorem State.writeFlag_key (s : State) (c : Bool) : (s.writeFlag c).key = s.key := rfl
@[simp] theorem State.writeFlag_fontBase (s : State) (c : Bool) : (s.writeFlag c).fontBase = s.fontBase := rfl
@[simp] theorem State.writeFlag_mem (s : State) (c : Bool) : (s.writeFlag c).mem = s.mem := rfl
@[simp] theorem State.writeFlag_fb (s : State) (c : Bool) : (s.writeFlag c).fb = s.fb := rfl
@[simp] theorem State.writeFlag_phase (s : State) (c : Bool) : (s.writeFlag c).phase = s.phase := rfl
@[simp] theorem State.writeFlag_status (s : State) (c : Bool) : (s.writeFlag c).status = s.status := rfl
@[simp] theorem State.writeFlag_faultCause (s : State) (c : Bool) : (s.writeFlag c).faultCause = s.faultCause := rfl
@[simp] theorem State.writeFlag_faultInfo (s : State) (c : Bool) : (s.writeFlag c).faultInfo = s.faultInfo := rfl
@[simp] theorem State.writeFlag_inputs (s : State) (c : Bool) : (s.writeFlag c).inputs = s.inputs := rfl
@[simp] theorem State.writeFlag_draws (s : State) (c : Bool) : (s.writeFlag c).draws = s.draws := rfl

@[simp] theorem State.result_cfg (s : State) (x : Nibble) (b : Byte) : (s.result x b).cfg = s.cfg := rfl
@[simp] theorem State.result_v (s : State) (x : Nibble) (b : Byte) : (s.result x b).v = (s.writeV x b).v := rfl
@[simp] theorem State.result_i (s : State) (x : Nibble) (b : Byte) : (s.result x b).i = s.i := rfl
@[simp] theorem State.result_pc (s : State) (x : Nibble) (b : Byte) : (s.result x b).pc = s.pc + 2 := rfl
@[simp] theorem State.result_sp (s : State) (x : Nibble) (b : Byte) : (s.result x b).sp = s.sp := rfl
@[simp] theorem State.result_stack (s : State) (x : Nibble) (b : Byte) : (s.result x b).stack = s.stack := rfl
@[simp] theorem State.result_dt (s : State) (x : Nibble) (b : Byte) : (s.result x b).dt = s.dt := rfl
@[simp] theorem State.result_st (s : State) (x : Nibble) (b : Byte) : (s.result x b).st = s.st := rfl
@[simp] theorem State.result_key (s : State) (x : Nibble) (b : Byte) : (s.result x b).key = s.key := rfl
@[simp] theorem State.result_fontBase (s : State) (x : Nibble) (b : Byte) : (s.result x b).fontBase = s.fontBase := rfl
@[simp] theorem State.result_mem (s : State) (x : Nibble) (b : Byte) : (s.result x b).mem = s.mem := rfl
@[simp] theorem State.result_fb (s : State) (x : Nibble) (b : Byte) : (s.result x b).fb = s.fb := rfl
@[simp] theorem State.result_phase (s : State) (x : Nibble) (b : Byte) : (s.result x b).phase = s.phase := rfl
@[simp] theorem State.result_status (s : State) (x : Nibble) (b : Byte) : (s.result x b).status = .advance := rfl
@[simp] theorem State.result_faultCause (s : State) (x : Nibble) (b : Byte) : (s.result x b).faultCause = s.faultCause := rfl
@[simp] theorem State.result_faultInfo (s : State) (x : Nibble) (b : Byte) : (s.result x b).faultInfo = s.faultInfo := rfl
@[simp] theorem State.result_inputs (s : State) (x : Nibble) (b : Byte) : (s.result x b).inputs = s.inputs := rfl
@[simp] theorem State.result_draws (s : State) (x : Nibble) (b : Byte) : (s.result x b).draws = s.draws := rfl

@[simp] theorem State.resultWithFlag_cfg (s : State) (x : Nibble) (b : Byte) (c : Bool) : (s.resultWithFlag x b c).cfg = s.cfg := rfl
@[simp] theorem State.resultWithFlag_v (s : State) (x : Nibble) (b : Byte) (c : Bool) : (s.resultWithFlag x b c).v = ((s.writeV x b).writeFlag c).v := rfl
@[simp] theorem State.resultWithFlag_i (s : State) (x : Nibble) (b : Byte) (c : Bool) : (s.resultWithFlag x b c).i = s.i := rfl
@[simp] theorem State.resultWithFlag_pc (s : State) (x : Nibble) (b : Byte) (c : Bool) : (s.resultWithFlag x b c).pc = s.pc + 2 := rfl
@[simp] theorem State.resultWithFlag_sp (s : State) (x : Nibble) (b : Byte) (c : Bool) : (s.resultWithFlag x b c).sp = s.sp := rfl
@[simp] theorem State.resultWithFlag_stack (s : State) (x : Nibble) (b : Byte) (c : Bool) : (s.resultWithFlag x b c).stack = s.stack := rfl
@[simp] theorem State.resultWithFlag_dt (s : State) (x : Nibble) (b : Byte) (c : Bool) : (s.resultWithFlag x b c).dt = s.dt := rfl
@[simp] theorem State.resultWithFlag_st (s : State) (x : Nibble) (b : Byte) (c : Bool) : (s.resultWithFlag x b c).st = s.st := rfl
@[simp] theorem State.resultWithFlag_key (s : State) (x : Nibble) (b : Byte) (c : Bool) : (s.resultWithFlag x b c).key = s.key := rfl
@[simp] theorem State.resultWithFlag_fontBase (s : State) (x : Nibble) (b : Byte) (c : Bool) : (s.resultWithFlag x b c).fontBase = s.fontBase := rfl
@[simp] theorem State.resultWithFlag_mem (s : State) (x : Nibble) (b : Byte) (c : Bool) : (s.resultWithFlag x b c).mem = s.mem := rfl
@[simp] theorem State.resultWithFlag_fb (s : State) (x : Nibble) (b : Byte) (c : Bool) : (s.resultWithFlag x b c).fb = s.fb := rfl
@[simp] theorem State.resultWithFlag_phase (s : State) (x : Nibble) (b : Byte) (c : Bool) : (s.resultWithFlag x b c).phase = s.phase := rfl
@[simp] theorem State.resultWithFlag_status (s : State) (x : Nibble) (b : Byte) (c : Bool) : (s.resultWithFlag x b c).status = .advance := rfl
@[simp] theorem State.resultWithFlag_faultCause (s : State) (x : Nibble) (b : Byte) (c : Bool) : (s.resultWithFlag x b c).faultCause = s.faultCause := rfl
@[simp] theorem State.resultWithFlag_faultInfo (s : State) (x : Nibble) (b : Byte) (c : Bool) : (s.resultWithFlag x b c).faultInfo = s.faultInfo := rfl
@[simp] theorem State.resultWithFlag_inputs (s : State) (x : Nibble) (b : Byte) (c : Bool) : (s.resultWithFlag x b c).inputs = s.inputs := rfl
@[simp] theorem State.resultWithFlag_draws (s : State) (x : Nibble) (b : Byte) (c : Bool) : (s.resultWithFlag x b c).draws = s.draws := rfl

@[simp] theorem State.tick_cfg (s : State) : (s.tick).cfg = s.cfg := rfl
@[simp] theorem State.tick_v (s : State) : (s.tick).v = s.v := rfl
@[simp] theorem State.tick_i (s : State) : (s.tick).i = s.i := rfl
@[simp] theorem State.tick_pc (s : State) : (s.tick).pc = s.pc := rfl
@[simp] theorem State.tick_sp (s : State) : (s.tick).sp = s.sp := rfl
@[simp] theorem State.tick_stack (s : State) : (s.tick).stack = s.stack := rfl
@[simp] theorem State.tick_dt (s : State) : (s.tick).dt = tickTimer s.dt := rfl
@[simp] theorem State.tick_st (s : State) : (s.tick).st = tickTimer s.st := rfl
@[simp] theorem State.tick_key (s : State) : (s.tick).key = s.key := rfl
@[simp] theorem State.tick_fontBase (s : State) : (s.tick).fontBase = s.fontBase := rfl
@[simp] theorem State.tick_mem (s : State) : (s.tick).mem = s.mem := rfl
@[simp] theorem State.tick_fb (s : State) : (s.tick).fb = s.fb := rfl
@[simp] theorem State.tick_phase (s : State) : (s.tick).phase = s.phase := rfl
@[simp] theorem State.tick_status (s : State) : (s.tick).status = s.status := rfl
@[simp] theorem State.tick_faultCause (s : State) : (s.tick).faultCause = s.faultCause := rfl
@[simp] theorem State.tick_faultInfo (s : State) : (s.tick).faultInfo = s.faultInfo := rfl
@[simp] theorem State.tick_inputs (s : State) : (s.tick).inputs = s.inputs := rfl
@[simp] theorem State.tick_draws (s : State) : (s.tick).draws = s.draws := rfl

@[simp] theorem State.keyArrives_cfg (s : State) (x : Nibble) (k : Byte) : (s.keyArrives x k).cfg = s.cfg := rfl
@[simp] theorem State.keyArrives_v (s : State) (x : Nibble) (k : Byte) : (s.keyArrives x k).v = (s.writeV x k).v := rfl
@[simp] theorem State.keyArrives_i (s : State) (x : Nibble) (k : Byte) : (s.keyArrives x k).i = s.i := rfl
@[simp] theorem State.keyArrives_pc (s : State) (x : Nibble) (k : Byte) : (s.keyArrives x k).pc = s.pc + 2 := rfl
@[simp] theorem State.keyArrives_sp (s : State) (x : Nibble) (k : Byte) : (s.keyArrives x k).sp = s.sp := rfl
@[simp] theorem State.keyArrives_stack (s : State) (x : Nibble) (k : Byte) : (s.keyArrives x k).stack = s.stack := rfl
@[simp] theorem State.keyArrives_dt (s : State) (x : Nibble) (k : Byte) : (s.keyArrives x k).dt = s.dt := rfl
@[simp] theorem State.keyArrives_st (s : State) (x : Nibble) (k : Byte) : (s.keyArrives x k).st = s.st := rfl
@[simp] theorem State.keyArrives_key (s : State) (x : Nibble) (k : Byte) : (s.keyArrives x k).key = k := rfl
@[simp] theorem State.keyArrives_fontBase (s : State) (x : Nibble) (k : Byte) : (s.keyArrives x k).fontBase = s.fontBase := rfl
@[simp] theorem State.keyArrives_mem (s : State) (x : Nibble) (k : Byte) : (s.keyArrives x k).mem = s.mem := rfl
@[simp] theorem State.keyArrives_fb (s : State) (x : Nibble) (k : Byte) : (s.keyArrives x k).fb = s.fb := rfl
@[simp] theorem State.keyArrives_phase (s : State) (x : Nibble) (k : Byte) : (s.keyArrives x k).phase = .run := rfl
@[simp] theorem State.keyArrives_status (s : State) (x : Nibble) (k : Byte) : (s.keyArrives x k).status = .advance := rfl
@[simp] theorem State.keyArrives_faultCause (s : State) (x : Nibble) (k : Byte) : (s.keyArrives x k).faultCause = s.faultCause := rfl
@[simp] theorem State.keyArrives_faultInfo (s : State) (x : Nibble) (k : Byte) : (s.keyArrives x k).faultInfo = s.faultInfo := rfl
@[simp] theorem State.keyArrives_inputs (s : State) (x : Nibble) (k : Byte) : (s.keyArrives x k).inputs = s.inputs := rfl
@[simp] theorem State.keyArrives_draws (s : State) (x : Nibble) (k : Byte) : (s.keyArrives x k).draws = s.draws := rfl

@[simp] theorem State.skipIf_cfg (s : State) (c : Bool) : (s.skipIf c).cfg = s.cfg := by cases c <;> rfl
@[simp] theorem State.skipIf_v (s : State) (c : Bool) : (s.skipIf c).v = s.v := by cases c <;> rfl
@[simp] theorem State.skipIf_i (s : State) (c : Bool) : (s.skipIf c).i = s.i := by cases c <;> rfl
@[simp] theorem State.skipIf_sp (s : State) (c : Bool) : (s.skipIf c).sp = s.sp := by cases c <;> rfl
@[simp] theorem State.skipIf_stack (s : State) (c : Bool) : (s.skipIf c).stack = s.stack := by cases c <;> rfl
@[simp] theorem State.skipIf_dt (s : State) (c : Bool) : (s.skipIf c).dt = s.dt := by cases c <;> rfl
@[simp] theorem State.skipIf_st (s : State) (c : Bool) : (s.skipIf c).st = s.st := by cases c <;> rfl
@[simp] theorem State.skipIf_key (s : State) (c : Bool) : (s.skipIf c).key = s.key := by cases c <;> rfl
@[simp] theorem State.skipIf_fontBase (s : State) (c : Bool) : (s.skipIf c).fontBase = s.fontBase := by cases c <;> rfl
@[simp] theorem State.skipIf_mem (s : State) (c : Bool) : (s.skipIf c).mem = s.mem := by cases c <;> rfl
@[simp] theorem State.skipIf_fb (s : State) (c : Bool) : (s.skipIf c).fb = s.fb := by cases c <;> rfl
@[simp] theorem State.skipIf_phase (s : State) (c : Bool) : (s.skipIf c).phase = s.phase := by cases c <;> rfl
@[simp] theorem State.skipIf_faultCause (s : State) (c : Bool) : (s.skipIf c).faultCause = s.faultCause := by cases c <;> rfl
@[simp] theorem State.skipIf_faultInfo (s : State) (c : Bool) : (s.skipIf c).faultInfo = s.faultInfo := by cases c <;> rfl
@[simp] theorem State.skipIf_inputs (s : State) (c : Bool) : (s.skipIf c).inputs = s.inputs := by cases c <;> rfl
@[simp] theorem State.skipIf_draws (s : State) (c : Bool) : (s.skipIf c).draws = s.draws := by cases c <;> rfl
theorem State.skipIf_true (s : State) : s.skipIf true = (s.setPc (s.pc + 4)).alreadySet := rfl
theorem State.skipIf_false (s : State) : s.skipIf false = s.advance := rfl

@[simp] theorem State.setPc_readV (s : State) (a : Word) (r : Nibble) : (s.setPc a).readV r = s.readV r := rfl
@[simp] theorem State.setPc_memRead (s : State) (a : Word) (adr : Nat) : (s.setPc a).memRead adr = s.memRead adr := rfl
@[simp] theorem State.setI_readV (s : State) (a : Word) (r : Nibble) : (s.setI a).readV r = s.readV r := rfl
@[simp] theorem State.setI_memRead (s : State) (a : Word) (adr : Nat) : (s.setI a).memRead adr = s.memRead adr := rfl
@[simp] theorem State.setDt_readV (s : State) (b : Byte) (r : Nibble) : (s.setDt b).readV r = s.readV r := rfl
@[simp] theorem State.setDt_memRead (s : State) (b : Byte) (adr : Nat) : (s.setDt b).memRead adr = s.memRead adr := rfl
@[simp] theorem State.setSt_readV (s : State) (b : Byte) (r : Nibble) : (s.setSt b).readV r = s.readV r := rfl
@[simp] theorem State.setSt_memRead (s : State) (b : Byte) (adr : Nat) : (s.setSt b).memRead adr = s.memRead adr := rfl
@[simp] theorem State.setKey_readV (s : State) (b : Byte) (r : Nibble) : (s.setKey b).readV r = s.readV r := rfl
@[simp] theorem State.setKey_memRead (s : State) (b : Byte) (adr : Nat) : (s.setKey b).memRead adr = s.memRead adr := rfl
@[simp] theorem State.setFb_readV (s : State) (fb : Framebuffer) (r : Nibble) : (s.setFb fb).readV r = s.readV r := rfl
@[simp] theorem State.setFb_memRead (s : State) (fb : Framebuffer) (adr : Nat) : (s.setFb fb).memRead adr = s.memRead adr := rfl
@[simp] theorem State.setPhase_readV (s : State) (p : Phase) (r : Nibble) : (s.setPhase p).readV r = s.readV r := rfl
@[simp] theorem State.setPhase_memRead (s : State) (p : Phase) (adr : Nat) : (s.setPhase p).memRead adr = s.memRead adr := rfl
@[simp] theorem State.memWrite_readV (s : State) (a : Nat) (b : Byte) (r : Nibble) : (s.memWrite a b).readV r = s.readV r := rfl
@[simp] theorem State.advance_readV (s : State) (r : Nibble) : (s.advance).readV r = s.readV r := rfl
@[simp] theorem State.advance_memRead (s : State) (adr : Nat) : (s.advance).memRead adr = s.memRead adr := rfl
@[simp] theorem State.alreadySet_readV (s : State) (r : Nibble) : (s.alreadySet).readV r = s.readV r := rfl
@[simp] theorem State.alreadySet_memRead (s : State) (adr : Nat) : (s.alreadySet).memRead adr = s.memRead adr := rfl
@[simp] theorem State.raise_readV (s : State) (cause : FaultCause) (info : Word) (r : Nibble) : (s.raise cause info).readV r = s.readV r := rfl
@[simp] theorem State.raise_memRead (s : State) (cause : FaultCause) (info : Word) (adr : Nat) : (s.raise cause info).memRead adr = s.memRead adr := rfl
@[simp] theorem State.writeV_memRead (s : State) (x : Nibble) (b : Byte) (adr : Nat) : (s.writeV x b).memRead adr = s.memRead adr := rfl
@[simp] theorem State.writeFlag_memRead (s : State) (c : Bool) (adr : Nat) : (s.writeFlag c).memRead adr = s.memRead adr := rfl
@[simp] theorem State.result_memRead (s : State) (x : Nibble) (b : Byte) (adr : Nat) : (s.result x b).memRead adr = s.memRead adr := rfl
@[simp] theorem State.resultWithFlag_memRead (s : State) (x : Nibble) (b : Byte) (c : Bool) (adr : Nat) : (s.resultWithFlag x b c).memRead adr = s.memRead adr := rfl
@[simp] theorem State.tick_readV (s : State) (r : Nibble) : (s.tick).readV r = s.readV r := rfl
@[simp] theorem State.tick_memRead (s : State) (adr : Nat) : (s.tick).memRead adr = s.memRead adr := rfl
@[simp] theorem State.keyArrives_memRead (s : State) (x : Nibble) (k : Byte) (adr : Nat) : (s.keyArrives x k).memRead adr = s.memRead adr := rfl
@[simp] theorem State.skipIf_readV (s : State) (c : Bool) (r : Nibble) : (s.skipIf c).readV r = s.readV r := by cases c <;> rfl
@[simp] theorem State.skipIf_memRead (s : State) (c : Bool) (adr : Nat) : (s.skipIf c).memRead adr = s.memRead adr := by cases c <;> rfl

/-- Reading the register just written (R31: for `x = 15` too, flag and register are one cell). -/
@[simp] theorem State.readV_writeV_same (s : State) (x : Nibble) (b : Byte) : (s.writeV x b).readV x = b := by
  simp [State.readV, State.writeV]

/-- Reading another register than the one written. -/
theorem State.readV_writeV_ne (s : State) {x r : Nibble} (b : Byte) (h : r ≠ x) :
    (s.writeV x b).readV r = s.readV r := by
  have : x.toNat ≠ r.toNat := fun e => h (BitVec.eq_of_toNat_eq e.symm)
  simp only [State.readV, State.writeV]
  exact Vector.getElem_set_ne _ _ this

@[simp] theorem State.readV_writeFlag_vf (s : State) (c : Bool) : (s.writeFlag c).readV vf = flagByte c :=
  s.readV_writeV_same vf _

theorem State.readV_writeFlag_ne (s : State) (c : Bool) {r : Nibble} (h : r ≠ vf) :
    (s.writeFlag c).readV r = s.readV r :=
  s.readV_writeV_ne _ h

@[simp] theorem State.readV_result_same (s : State) (x : Nibble) (b : Byte) : (s.result x b).readV x = b :=
  s.readV_writeV_same x b

theorem State.readV_result_ne (s : State) {x r : Nibble} (b : Byte) (h : r ≠ x) :
    (s.result x b).readV r = s.readV r :=
  s.readV_writeV_ne b h

/-- The flag is what VF holds after a flag-writing instruction, whatever the destination (R182). -/
@[simp] theorem State.readV_resultWithFlag_vf (s : State) (x : Nibble) (b : Byte) (c : Bool) :
    (s.resultWithFlag x b c).readV vf = flagByte c :=
  (s.writeV x b).readV_writeFlag_vf c

theorem State.readV_resultWithFlag_dest (s : State) {x : Nibble} (b : Byte) (c : Bool) (h : x ≠ vf) :
    (s.resultWithFlag x b c).readV x = b :=
  ((s.writeV x b).readV_writeFlag_ne c h).trans (s.readV_writeV_same x b)

theorem State.readV_resultWithFlag_ne (s : State) {x r : Nibble} (b : Byte) (c : Bool) (hx : r ≠ x) (hf : r ≠ vf) :
    (s.resultWithFlag x b c).readV r = s.readV r :=
  ((s.writeV x b).readV_writeFlag_ne c hf).trans (s.readV_writeV_ne b hx)

@[simp] theorem State.memRead_memWrite_same (s : State) (a : Nat) (b : Byte) : (s.memWrite a b).memRead a = b :=
  s.mem.read_write_same a b

theorem State.memRead_memWrite_ne (s : State) {a a' : Nat} (b : Byte) (h : a' ≠ a) :
    (s.memWrite a b).memRead a' = s.memRead a' :=
  s.mem.read_write_ne b h

end Sys2Proof.Machine
end

