-- ==== Sys2Proof/Laws/Ops.lean ====
section
/-! SUPPORT. What each shared operation can do, said once. -/

namespace Sys2Proof.Machine

/-- Nothing changed: the frame of an operation that writes nothing. -/
theorem Keeps.refl (c : MayChange) (s : State) : Keeps c s s := by
  constructor <;> intros <;> first | rfl | exact ⟨rfl, rfl⟩

/-- `raise` takes the fault it names and changes nothing else (R312, R313). -/
theorem State.raise_faulted (s : State) (cause : FaultCause) (info : Word) :
    Faulted cause info s (s.raise cause info) where
  status := rfl
  faultCause := rfl
  faultInfo := rfl
  halt h := by simp [h, pcAfterFault, phaseAfterFault]
  skip h := by simp [h, pcAfterFault, phaseAfterFault]
  frame := by constructor <;> simp

/-- The range check says that every address exists (R77). -/
theorem State.rangeOk_iff (s : State) (n : Nat) :
    s.rangeOk n = true ↔ ∀ k < n, s.i.toNat + k < s.cfg.memSize := by
  simp [State.rangeOk, State.addrOk]

/-- It is enough that the last address exists (R236, R272). -/
theorem State.rangeOk_last (s : State) (n : Nat) :
    s.rangeOk n = true ↔ n = 0 ∨ s.i.toNat + (n - 1) < s.cfg.memSize := by
  rw [State.rangeOk_iff]
  constructor
  · intro h
    rcases Nat.eq_zero_or_pos n with hn | hn
    · exact .inl hn
    · exact .inr (h (n - 1) (by omega))
  · rintro (rfl | h) k hk
    · exact absurd hk (by omega)
    · omega

/-- A guarded access runs where every address exists, and otherwise faults (R77, R78). -/
theorem State.guardRange_cases {s after t : State} {n : Nat} (h : s.guardRange n after = .next t) :
    (s.rangeOk n = true ∧ t = after) ∨ (s.rangeOk n = false ∧ t = s.raise .memRange s.i) := by
  unfold State.guardRange at h
  split at h
  · next ok => exact .inl ⟨ok, by injection h with h; exact h.symm⟩
  · next bad => exact .inr ⟨by simpa using bad, by injection h with h; exact h.symm⟩

theorem State.guardRange_ok {s : State} {n : Nat} (h : s.rangeOk n = true) (after : State) :
    s.guardRange n after = .next after := by simp [State.guardRange, h]

theorem State.guardRange_fault {s : State} {n : Nat} (h : s.rangeOk n = false) (after : State) :
    s.guardRange n after = .next (s.raise .memRange s.i) := by simp [State.guardRange, h]

/-- `Push` (R37): the value becomes the top entry, and only `SP` and that entry change. -/
theorem State.push_cases (s : State) (a : Word) :
    (s.sp < s.cfg.stackDepth ∧ s.push a = some { s with stack := s.stack.set s.sp a, sp := s.sp + 1 }) ∨
      (s.cfg.stackDepth ≤ s.sp ∧ s.push a = none) := by
  unfold State.push
  split
  · next h => exact .inl ⟨h, rfl⟩
  · next h => exact .inr ⟨by omega, rfl⟩

/-- `Pop` (R37): the top entry is answered, and only `SP` changes. -/
theorem State.pop_cases (s : State) :
    (0 < s.sp ∧ s.pop = some (s.entry (s.sp - 1), { s with sp := s.sp - 1 })) ∨ (s.sp = 0 ∧ s.pop = none) := by
  unfold State.pop
  split
  · next h => exact .inl ⟨h, rfl⟩
  · next h => exact .inr ⟨by omega, rfl⟩

/-- A skip does one of two things (R143). -/
theorem State.skipIf_skipped (s : State) (c : Bool) : SkippedIf (c = true) s (s.skipIf c) where
  taken h := by subst h; exact ⟨rfl, rfl⟩
  notTaken h := by
    cases c
    · exact ⟨rfl, rfl⟩
    · exact absurd rfl h

/-- `FetchWord` answers exactly where both bytes exist (R72). -/
theorem State.fetchWord_cases (s : State) :
    (s.pc.toNat + 1 < s.cfg.memSize ∧
        s.fetchWord = some (wordOfBytes (s.memRead s.pc.toNat) (s.memRead (s.pc.toNat + 1)))) ∨
      (s.cfg.memSize ≤ s.pc.toNat + 1 ∧ s.fetchWord = none) := by
  unfold State.fetchWord
  split
  · next h => exact .inl ⟨h, rfl⟩
  · next h => exact .inr ⟨by omega, rfl⟩

/-- Ticks never raise a timer (R332, R364). -/
theorem ticksTimer_toNat (n : Nat) (b : Byte) : (ticksTimer n b).toNat = b.toNat - n := by
  induction n generalizing b with
  | zero => rfl
  | succ n ih =>
    rw [ticksTimer, ih]
    unfold tickTimer
    split
    · next h => subst h; simp
    · next h =>
      have : b.toNat ≠ 0 := fun e => h (BitVec.eq_of_toNat_eq e)
      have lt := b.isLt
      have one : (1 : Byte).toNat = 1 := rfl
      rw [BitVec.toNat_sub, one]
      omega

/-- Between two steps nothing happens to a halted core. -/
theorem State.between_halted {s : State} (h : s.phase = .halted) (d : Config.Inputs) : s.between d = s := by
  simp [State.between, h]

/-- Between two steps the tick driver and the keyboard act, and nothing else changes (R330, R332, R334). -/
theorem State.between_running {s : State} (h : s.phase ≠ .halted) (d : Config.Inputs) :
    s.between d =
      { s with
        dt := ticksTimer d.ticks s.dt
        st := ticksTimer d.ticks s.st
        key := d.keyWrite.getD s.key
        inputs := s.inputs.tail
        draws := s.draws + 1 } := by
  simp [State.between, h]

/-- What the other agents never touch (R330). -/
theorem State.between_core (s : State) (d : Config.Inputs) :
    (s.between d).cfg = s.cfg ∧ (s.between d).v = s.v ∧ (s.between d).i = s.i ∧ (s.between d).pc = s.pc ∧
      (s.between d).sp = s.sp ∧ (s.between d).stack = s.stack ∧ (s.between d).fontBase = s.fontBase ∧
      (s.between d).mem = s.mem ∧ (s.between d).fb = s.fb ∧ (s.between d).phase = s.phase ∧
      (s.between d).status = s.status ∧ (s.between d).faultCause = s.faultCause ∧
      (s.between d).faultInfo = s.faultInfo := by
  unfold State.between
  split <;> exact ⟨rfl, rfl, rfl, rfl, rfl, rfl, rfl, rfl, rfl, rfl, rfl, rfl, rfl⟩

/-- A step in `WAIT_KEY` either holds or completes the `LD_VX_K` (R281). -/
theorem State.keyWaitStep_cases (s : State) (x : Nibble) :
    (s.keyWaitStep x = s ∧ ∀ k, s.currentInputs.keyAnswer = some k → k = 0) ∨
      ∃ k, k ≠ 0 ∧ s.currentInputs.keyAnswer = some k ∧ s.keyWaitStep x = s.keyArrives x k := by
  unfold State.keyWaitStep
  split
  · next k hk =>
    split
    · next h => exact .inl ⟨rfl, fun k' hk' => by rw [hk] at hk'; injection hk' with e; exact e ▸ h⟩
    · next h => exact .inr ⟨k, h, hk, rfl⟩
  · next hk => exact .inl ⟨rfl, fun k' hk' => by rw [hk] at hk'; cases hk'⟩

/-- The core's step in phase `RUN`: a fetch fault, an unimplemented word, or the decoded instruction (R140, R314). -/
theorem coreStep_run {s : State} (h : s.phase = .run) :
    (s.fetchWord = none ∧ coreStep s = .next (s.raise .fetchRange s.pc)) ∨
      ∃ w, s.fetchWord = some w ∧
        ((∃ e, decodeWord s.cfg.strictDecode w = .error e ∧ coreStep s = .next (s.raise .unimplemented w)) ∨
          ∃ i, decodeWord s.cfg.strictDecode w = .ok i ∧ coreStep s = exec i s) := by
  unfold coreStep
  rw [h]
  cases hf : s.fetchWord with
  | none => exact .inl ⟨rfl, rfl⟩
  | some w =>
    refine .inr ⟨w, rfl, ?_⟩
    cases hd : decodeWord s.cfg.strictDecode w with
    | error e => exact .inl ⟨e, rfl, by simp [hd]⟩
    | ok i => exact .inr ⟨i, rfl, by simp [hd]⟩

/-- A step that answers a next state is the core's step followed by what the other agents do. -/
theorem step_next {s t : State} (h : step s = .next t) :
    ∃ u, coreStep s = .next u ∧ t = u.between s.currentInputs := by
  unfold step at h
  split at h
  · next u hu => exact ⟨u, hu, by injection h with h; exact h.symm⟩
  · cases h
  · cases h

end Sys2Proof.Machine
end

