-- ==== Sys2Proof/Laws/Cycle.lean ====
section
/-! SUPPORT. The laws of the instruction cycle: what the fetch and the decoder say of the bytes at `PC`, and what the
reads among a step's transactions do. -/

namespace Sys2Proof.Machine

@[simp] theorem highByte_wordOfBytes (hi lo : Byte) : highByte (wordOfBytes hi lo) = hi := by
  apply BitVec.eq_of_getLsbD_eq
  intro k hk
  simp only [highByte, wordOfBytes, BitVec.getLsbD_extractLsb', BitVec.getLsbD_append]
  simp [hk]

@[simp] theorem lowByte_wordOfBytes (hi lo : Byte) : lowByte (wordOfBytes hi lo) = lo := by
  apply BitVec.eq_of_getLsbD_eq
  intro k hk
  simp only [lowByte, wordOfBytes, BitVec.getLsbD_extractLsb', BitVec.getLsbD_append]
  simp [hk]

@[simp] theorem wordOfBytes_bytes (w : Word) : wordOfBytes (highByte w) (lowByte w) = w := by
  apply BitVec.eq_of_getLsbD_eq
  intro k hk
  unfold wordOfBytes
  rw [BitVec.getLsbD_append]
  split_ifs <;> exact field_bit (by omega) (by omega)

/-- The fetch answers the word whose two bytes are in memory at `PC` (R72). -/
theorem State.fetchWord_iff (s : State) (w : Word) : s.fetchWord = some w ↔ Fetches s w := by
  rcases s.fetchWord_cases with ⟨h, e⟩ | ⟨h, e⟩
  · rw [e]
    constructor
    · rintro ⟨⟩
      exact ⟨h, highByte_wordOfBytes .., lowByte_wordOfBytes ..⟩
    · rintro ⟨_, h1, h2⟩
      rw [← h1, ← h2, wordOfBytes_bytes]
  · rw [e]
    constructor
    · rintro ⟨⟩
    · rintro ⟨h', _, _⟩
      omega

/-- The bytes at `PC` decode to an instruction exactly where the fetched word does (R111). -/
theorem State.decodes_iff (s : State) (i : Instr) :
    Decodes s i ↔ ∃ w, s.fetchWord = some w ∧ decodeWord s.cfg.strictDecode w = .ok i := by
  rcases s.fetchWord_cases with ⟨h, e⟩ | ⟨h, e⟩
  · rw [e]
    constructor
    · rintro ⟨_, hb⟩
      refine ⟨_, rfl, ?_⟩
      unfold decode at hb
      split at hb
      · next hi lo rest hh =>
        cases hh
        split at hb
        · next j hj => cases hb; exact hj
        · cases hb
      · cases hb
      · cases hb
    · rintro ⟨w, ⟨⟩, hd⟩
      exact ⟨h, by simp [decode, hd]⟩
  · rw [e]
    constructor
    · rintro ⟨h', _⟩
      omega
    · rintro ⟨w, ⟨⟩, _⟩

/-- In phase `WAIT_KEY` the core's step is the key wait (R281). -/
theorem coreStep_waitKey {s : State} {x : Nibble} (h : s.phase = .waitKey x) : coreStep s = .next (s.keyWaitStep x) := by
  simp [coreStep, h]

/-- Reads change no memory (R79). -/
theorem dataReads_onMemory (cfg : Config.Params) (n a : Nat) (m : Memory) :
    (dataReads a n).foldl (fun m t => t.onMemory cfg m) m = m := by
  induction n generalizing a with
  | zero => rfl
  | succ n ih => exact ih (a + 1)

/-- Reads change no pixel. -/
theorem dataReads_onFramebuffer (cfg : Config.Params) (n a : Nat) (fb : Framebuffer) :
    (dataReads a n).foldl (fun fb t => t.onFramebuffer cfg fb) fb = fb := by
  induction n generalizing a with
  | zero => rfl
  | succ n ih => exact ih (a + 1)

/-- `dataReads` reads `n` bytes and does nothing else. -/
theorem dataReads_shape (n a : Nat) :
    (dataReads a n).all Transaction.isDataRead = true ∧ (dataReads a n).length = n := by
  induction n generalizing a with
  | zero => exact ⟨rfl, rfl⟩
  | succ n ih => exact ⟨(ih (a + 1)).1, by simp [dataReads, (ih (a + 1)).2]⟩

end Sys2Proof.Machine
end

