-- ==== Sys2Proof/Laws/Draw.lean ====
section
/-! SUPPORT. The laws of drawing a sprite (spec/60_exceptions.md R333): how often its bits land on a pixel, and what
`DRW` makes of it. -/

namespace Sys2Proof.Machine

/-- How often the bits of one sprite row land on a pixel. -/
theorem count_rowPixels (cfg : Config.Params) (x y r : Nat) (b : Byte) (p : Nat × Nat) :
    (rowPixels cfg x y r b).count p =
      (List.range 8).countP fun c => b.getLsbD (7 - c) && place cfg x y c r == some p := by
  rw [rowPixels, List.count, List.countP_filterMap]
  congr 1
  funext c
  cases b.getLsbD (7 - c) <;> cases place cfg x y c r <;> simp

/-- How often the bits of a sprite in memory land on a pixel. -/
theorem count_spritePixels (cfg : Config.Params) (m : Memory) (x y n a r : Nat) (p : Nat × Nat) :
    (spritePixels cfg x y r (m.readBytes cfg a n)).count p =
      ((List.range n).map fun k => (List.range 8).countP fun c =>
        (m.read cfg (a + k)).getLsbD (7 - c) && place cfg x y c (r + k) == some p).sum := by
  induction n generalizing a r with
  | zero => simp [Memory.readBytes, spritePixels]
  | succ n ih =>
    have shift (b k : Nat) : b + 1 + k = b + (k + 1) := by omega
    rw [Memory.readBytes, spritePixels, List.count_append, count_rowPixels, ih, List.range_succ_eq_map (n := n)]
    simp [List.map_map, Function.comp_def, shift]

/-- The model's own pixels of a sprite, counted, are the hits of R333's contract. -/
theorem State.count_sprite (s : State) (x y n : Nibble) (px py : Nat) :
    (spritePixels s.cfg (s.readV x).toNat (s.readV y).toNat 0 (s.sprite n)).count (px, py) = s.hits x y n px py := by
  rw [State.sprite, count_spritePixels, State.hits]
  simp [State.memRead]

/-- A sprite covers the pixels it hits. -/
theorem State.covers_iff (s : State) (x y n : Nibble) (px py : Nat) :
    s.Covers x y n px py ↔ 0 < s.hits x y n px py := by
  constructor
  · rintro ⟨r, hr, c, hc, bit, lands⟩
    have row : 0 < (List.range 8).countP fun c => (s.memRead (s.i.toNat + r)).getLsbD (7 - c) &&
        place s.cfg (s.readV x).toNat (s.readV y).toNat c r == some (px, py) :=
      List.countP_pos_iff.2 ⟨c, List.mem_range.2 hc, by simp [bit, lands]⟩
    exact Nat.lt_of_lt_of_le row (List.le_sum_of_mem (List.mem_map.2 ⟨r, List.mem_range.2 hr, rfl⟩))
  · intro h
    by_contra none
    have zero : s.hits x y n px py = 0 := by
      refine List.sum_eq_zero fun k hk => ?_
      obtain ⟨r, hr, rfl⟩ := List.mem_map.1 hk
      refine List.countP_eq_zero.2 fun c hc hit => none ⟨r, List.mem_range.1 hr, c, List.mem_range.1 hc, ?_⟩
      simpa using hit
    omega

/-- Two set bits of a sprite land on one pixel only if they are one bit, on a framebuffer at least 8 wide and as high as
the sprite. -/
theorem place_injective {cfg : Config.Params} {x y r c r' c' n : Nat} {p : Nat × Nat} (wide : 8 ≤ cfg.fbWidth)
    (high : n ≤ cfg.fbHeight) (hc : c < 8) (hc' : c' < 8) (hr : r < n) (hr' : r' < n)
    (h : place cfg x y c r = some p) (h' : place cfg x y c' r' = some p) : c = c' ∧ r = r' := by
  have wrap {b i j w : Nat} (hi : i < w) (hj : j < w) (e : (b + i) % w = (b + j) % w) : i = j := by
    have e' : i ≡ j [MOD w] := Nat.ModEq.add_left_cancel' b e
    rwa [Nat.ModEq, Nat.mod_eq_of_lt hi, Nat.mod_eq_of_lt hj] at e'
  have landed {r c : Nat} (h : place cfg x y c r = some p) : landing cfg x y c r = p := by
    unfold place at h
    simp only at h
    split at h
    · exact Option.some.inj h
    · cases h
  have e := (landed h).trans (landed h').symm
  unfold landing at e
  split at e
  · obtain ⟨e1, e2⟩ := Prod.mk.inj e
    exact ⟨wrap (by omega) (by omega) e1, wrap (by omega) (by omega) e2⟩
  · obtain ⟨e1, e2⟩ := Prod.mk.inj e
    exact ⟨by omega, by omega⟩

/-- The pixels of a sprite, by the row and the bit they come from. -/
theorem mem_spritePixels {cfg : Config.Params} {x y r : Nat} {bytes : List Byte} {p : Nat × Nat} :
    p ∈ spritePixels cfg x y r bytes ↔
      ∃ k < bytes.length, ∃ c < 8, (bytes.getD k 0).getLsbD (7 - c) = true ∧ place cfg x y c (r + k) = some p := by
  induction bytes generalizing r with
  | nil => simp [spritePixels]
  | cons b rest ih =>
    have shift (k : Nat) : r + 1 + k = r + (k + 1) := by omega
    rw [spritePixels, List.mem_append, mem_rowPixels, ih]
    constructor
    · rintro (⟨c, hc, h⟩ | ⟨k, hk, c, hc, h⟩)
      · exact ⟨0, by simp, c, hc, by simpa using h⟩
      · exact ⟨k + 1, by simp [hk], c, hc, by simpa [shift] using h⟩
    · rintro ⟨k, hk, c, hc, h⟩
      cases k with
      | zero => exact .inl ⟨c, hc, by simpa using h⟩
      | succ k => exact .inr ⟨k, by simpa using hk, c, hc, by simpa [shift] using h⟩

/-- On a framebuffer at least 8 wide and as high as the sprite no two bits of a sprite land on one pixel. -/
theorem spritePixels_nodup {cfg : Config.Params} (x y : Nat) {n : Nat} (wide : 8 ≤ cfg.fbWidth)
    (high : n ≤ cfg.fbHeight) {r : Nat} {bytes : List Byte} (fits : r + bytes.length ≤ n) :
    (spritePixels cfg x y r bytes).Nodup := by
  induction bytes generalizing r with
  | nil => simp [spritePixels]
  | cons b rest ih =>
    simp only [List.length_cons] at fits
    rw [spritePixels, List.nodup_append]
    refine ⟨?_, ih (by omega), fun p hp q hq e => ?_⟩
    · rw [rowPixels, List.Nodup, List.pairwise_filterMap]
      refine List.Pairwise.imp_of_mem ?_ (List.nodup_range (n := 8))
      rintro c c' hc hc' ne p hp q hq rfl
      split at hp <;> [skip; cases hp]
      split at hq <;> [skip; cases hq]
      exact ne (place_injective wide high (List.mem_range.1 hc) (List.mem_range.1 hc') (by omega) (by omega) hp hq).1
    · subst e
      obtain ⟨c, hc, _, h⟩ := mem_rowPixels.1 hp
      obtain ⟨k, hk, c', hc', _, h'⟩ := mem_spritePixels.1 hq
      have := (place_injective wide high hc hc' (by omega) (by omega) h h').2
      omega

/-- At most one bit of a sprite lands on each pixel, on such a framebuffer. -/
theorem State.hits_le_one (s : State) (x y n : Nibble) (wide : 8 ≤ s.cfg.fbWidth) (high : n.toNat ≤ s.cfg.fbHeight)
    (px py : Nat) : s.hits x y n px py ≤ 1 := by
  rw [← State.count_sprite]
  exact List.nodup_iff_count_le_one.1 (spritePixels_nodup _ _ wide high (by simp [State.sprite])) (px, py)

end Sys2Proof.Machine
end

