-- ==== Sys2Proof/Laws/PerInstr.lean ====
section
/-! SUPPORT. One lemma per instruction, about the instruction as syntax. -/

namespace Sys2Proof.Laws.TableRow

/-- The word of an instruction carries the fixed bits that its row of R110 gives it, under either `STRICT_DECODE`. -/
def Statement (i : Instr) : Prop := ∀ strict, i.wf strict = true → matchesRow strict (encode i) i = true

/-- An instruction with an ignored nibble is well formed under `STRICT_DECODE` only where that nibble is 0. -/
theorem ignored_zero {i : Instr} {ign : Nibble} (hi : i.ignored = some ign) (h : i.wf true = true) : ign = 0 := by
  simpa [Instr.wf, hi] using h

theorem cls (ign : Nibble) : Statement (.cls ign) := by
  intro strict h
  cases strict
  · simp only [matchesRow, encode, Instr.mask, Instr.pattern, Bool.false_eq_true, if_false, packXK_mask_F0FF]
    decide
  · obtain rfl := ignored_zero rfl h
    simp only [matchesRow, encode, Instr.mask, Instr.pattern, if_true]
    decide

theorem ret (ign : Nibble) : Statement (.ret ign) := by
  intro strict h
  cases strict
  · simp only [matchesRow, encode, Instr.mask, Instr.pattern, Bool.false_eq_true, if_false, packXK_mask_F0FF]
    decide
  · obtain rfl := ignored_zero rfl h
    simp only [matchesRow, encode, Instr.mask, Instr.pattern, if_true]
    decide

theorem jp (nnn : Addr12) : Statement (.jp nnn) := by
  intro _ _
  simp only [matchesRow, encode, Instr.mask, Instr.pattern, packA_mask_F000]
  decide

theorem call (nnn : Addr12) : Statement (.call nnn) := by
  intro _ _
  simp only [matchesRow, encode, Instr.mask, Instr.pattern, packA_mask_F000]
  decide

theorem seImm (x : Nibble) (kk : Byte) : Statement (.seImm x kk) := by
  intro _ _
  simp only [matchesRow, encode, Instr.mask, Instr.pattern, packXK_mask_F000]
  decide

theorem sneImm (x : Nibble) (kk : Byte) : Statement (.sneImm x kk) := by
  intro _ _
  simp only [matchesRow, encode, Instr.mask, Instr.pattern, packXK_mask_F000]
  decide

theorem seReg (x : Nibble) (y : Nibble) (ign : Nibble) : Statement (.seReg x y ign) := by
  intro strict h
  cases strict
  · simp only [matchesRow, encode, Instr.mask, Instr.pattern, Bool.false_eq_true, if_false, packXYN_mask_F000]
    decide
  · obtain rfl := ignored_zero rfl h
    simp only [matchesRow, encode, Instr.mask, Instr.pattern, if_true]
    rw [packXYN_mask_F00F]; decide

theorem ldImm (x : Nibble) (kk : Byte) : Statement (.ldImm x kk) := by
  intro _ _
  simp only [matchesRow, encode, Instr.mask, Instr.pattern, packXK_mask_F000]
  decide

theorem addImm (x : Nibble) (kk : Byte) : Statement (.addImm x kk) := by
  intro _ _
  simp only [matchesRow, encode, Instr.mask, Instr.pattern, packXK_mask_F000]
  decide

theorem ldReg (x : Nibble) (y : Nibble) : Statement (.ldReg x y) := by
  intro _ _
  simp only [matchesRow, encode, Instr.mask, Instr.pattern, packXYN_mask_F00F]
  decide

theorem or (x : Nibble) (y : Nibble) : Statement (.or x y) := by
  intro _ _
  simp only [matchesRow, encode, Instr.mask, Instr.pattern, packXYN_mask_F00F]
  decide

theorem and (x : Nibble) (y : Nibble) : Statement (.and x y) := by
  intro _ _
  simp only [matchesRow, encode, Instr.mask, Instr.pattern, packXYN_mask_F00F]
  decide

theorem xor (x : Nibble) (y : Nibble) : Statement (.xor x y) := by
  intro _ _
  simp only [matchesRow, encode, Instr.mask, Instr.pattern, packXYN_mask_F00F]
  decide

theorem addReg (x : Nibble) (y : Nibble) : Statement (.addReg x y) := by
  intro _ _
  simp only [matchesRow, encode, Instr.mask, Instr.pattern, packXYN_mask_F00F]
  decide

theorem sub (x : Nibble) (y : Nibble) : Statement (.sub x y) := by
  intro _ _
  simp only [matchesRow, encode, Instr.mask, Instr.pattern, packXYN_mask_F00F]
  decide

theorem shr (x : Nibble) (y : Nibble) : Statement (.shr x y) := by
  intro _ _
  simp only [matchesRow, encode, Instr.mask, Instr.pattern, packXYN_mask_F00F]
  decide

theorem subn (x : Nibble) (y : Nibble) : Statement (.subn x y) := by
  intro _ _
  simp only [matchesRow, encode, Instr.mask, Instr.pattern, packXYN_mask_F00F]
  decide

theorem shl (x : Nibble) (y : Nibble) : Statement (.shl x y) := by
  intro _ _
  simp only [matchesRow, encode, Instr.mask, Instr.pattern, packXYN_mask_F00F]
  decide

theorem sneReg (x : Nibble) (y : Nibble) (ign : Nibble) : Statement (.sneReg x y ign) := by
  intro strict h
  cases strict
  · simp only [matchesRow, encode, Instr.mask, Instr.pattern, Bool.false_eq_true, if_false, packXYN_mask_F000]
    decide
  · obtain rfl := ignored_zero rfl h
    simp only [matchesRow, encode, Instr.mask, Instr.pattern, if_true]
    rw [packXYN_mask_F00F]; decide

theorem ldI (nnn : Addr12) : Statement (.ldI nnn) := by
  intro _ _
  simp only [matchesRow, encode, Instr.mask, Instr.pattern, packA_mask_F000]
  decide

theorem jpo (nnn : Addr12) : Statement (.jpo nnn) := by
  intro _ _
  simp only [matchesRow, encode, Instr.mask, Instr.pattern, packA_mask_F000]
  decide

theorem rnd (x : Nibble) (kk : Byte) : Statement (.rnd x kk) := by
  intro _ _
  simp only [matchesRow, encode, Instr.mask, Instr.pattern, packXK_mask_F000]
  decide

theorem drw (x : Nibble) (y : Nibble) (n : Nibble) : Statement (.drw x y n) := by
  intro _ _
  simp only [matchesRow, encode, Instr.mask, Instr.pattern, packXYN_mask_F000]
  decide

theorem skp (x : Nibble) : Statement (.skp x) := by
  intro _ _
  simp only [matchesRow, encode, Instr.mask, Instr.pattern, packXK_mask_F0FF]
  decide

theorem sknp (x : Nibble) : Statement (.sknp x) := by
  intro _ _
  simp only [matchesRow, encode, Instr.mask, Instr.pattern, packXK_mask_F0FF]
  decide

theorem ldVxDt (x : Nibble) : Statement (.ldVxDt x) := by
  intro _ _
  simp only [matchesRow, encode, Instr.mask, Instr.pattern, packXK_mask_F0FF]
  decide

theorem ldVxK (x : Nibble) : Statement (.ldVxK x) := by
  intro _ _
  simp only [matchesRow, encode, Instr.mask, Instr.pattern, packXK_mask_F0FF]
  decide

theorem ldDtVx (x : Nibble) : Statement (.ldDtVx x) := by
  intro _ _
  simp only [matchesRow, encode, Instr.mask, Instr.pattern, packXK_mask_F0FF]
  decide

theorem ldStVx (x : Nibble) : Statement (.ldStVx x) := by
  intro _ _
  simp only [matchesRow, encode, Instr.mask, Instr.pattern, packXK_mask_F0FF]
  decide

theorem addIVx (x : Nibble) : Statement (.addIVx x) := by
  intro _ _
  simp only [matchesRow, encode, Instr.mask, Instr.pattern, packXK_mask_F0FF]
  decide

theorem ldFVx (x : Nibble) : Statement (.ldFVx x) := by
  intro _ _
  simp only [matchesRow, encode, Instr.mask, Instr.pattern, packXK_mask_F0FF]
  decide

theorem ldBVx (x : Nibble) : Statement (.ldBVx x) := by
  intro _ _
  simp only [matchesRow, encode, Instr.mask, Instr.pattern, packXK_mask_F0FF]
  decide

theorem ldMemVx (x : Nibble) : Statement (.ldMemVx x) := by
  intro _ _
  simp only [matchesRow, encode, Instr.mask, Instr.pattern, packXK_mask_F0FF]
  decide

theorem ldVxMem (x : Nibble) : Statement (.ldVxMem x) := by
  intro _ _
  simp only [matchesRow, encode, Instr.mask, Instr.pattern, packXK_mask_F0FF]
  decide

end Sys2Proof.Laws.TableRow
end

