-- ==== Sys2Proof/Tests/Slice0.lean ====
section
/-! SUPPORT. Small tests of the model: expected results are the vectors of spec/95_test_vectors.md (named in each
comment) or the spec's own encodings. -/

namespace Sys2Proof.Tests

open Sys2Proof.Machine

/-- One transaction in which no tick, no key and the random byte `b` come from outside. -/
def quiet (b : Byte) : Config.Inputs := ⟨b, none, 0, none⟩

/-- The reset state changed by `before`, with the word `w` at `PC` and quiet collaborators (95_test_vectors.md,
Conventions). -/
def placed (w : Nat) (before : State → State) : State :=
  { (before State.reset).withFetchWord 16 w with inputs := [quiet 0xA7] }

/-- What one step of `placed` leaves. -/
def ran (w : Nat) (before : State → State) : Result := step (placed w before)

/-- One observation of a next state. -/
def see {α : Type} (r : Result) (f : State → α) : Option α :=
  match r with
  | .next t => some (f t)
  | .fault _ => none
  | .refused _ => none

/-- The reset state unchanged. -/
def same (s : State) : State := s

/-- How a step ended: `PC`, `STATUS`, the fault record and the phase. -/
structure Ending where
  pc : Word
  status : BitVec 2
  cause : BitVec 3
  info : Word
  phase : Phase
  deriving DecidableEq, Repr

/-- How the step that led to `t` ended. -/
def outcome (t : State) : Ending := ⟨t.pc, t.status.code, t.faultCause.code, t.faultInfo, t.phase⟩

/-- The parameters with one changed. -/
def withCfg (f : Config.Params → Config.Params) (s : State) : State := { s with cfg := f s.cfg }

/-! ### Well-formedness (R109, R114) -/

theorem test_wf_cls_strict : Instr.wf true (.cls 1) = false := by decide
theorem test_wf_ret_strict : Instr.wf true (.ret 0xF) = false := by decide
theorem test_wf_seReg_strict : Instr.wf true (.seReg 1 2 3) = false := by decide
theorem test_wf_sneReg_strict : Instr.wf true (.sneReg 1 2 8) = false := by decide
theorem test_wf_lenient : Instr.wf false (.cls 1) = true := by decide
theorem test_wf_strict_zero : Instr.wf true (.seReg 1 2 0) = true := by decide

/-! ### Decoding: words written out from R110, and L1.14 -/

theorem test_decode_group0 : decodeTableWord 16 0x00E0 = some (.cls 0) ∧ decodeTableWord 16 0x01E0 = some (.cls 1) ∧
    decodeTableWord 16 0x00EE = some (.ret 0) := by decide

theorem test_decode_jumps : decodeTableWord 16 0x1234 = some (.jp 0x234) ∧
    decodeTableWord 16 0x220A = some (.call 0x20A) ∧ decodeTableWord 16 0xB300 = some (.jpo 0x300) := by decide

theorem test_decode_skips : decodeTableWord 16 0x3A07 = some (.seImm 0xA 0x07) ∧
    decodeTableWord 16 0x4A08 = some (.sneImm 0xA 0x08) ∧ decodeTableWord 16 0x5123 = some (.seReg 1 2 3) ∧
    decodeTableWord 16 0x9120 = some (.sneReg 1 2 0) := by decide

theorem test_decode_immediates : decodeTableWord 16 0x6A07 = some (.ldImm 0xA 0x07) ∧
    decodeTableWord 16 0x7305 = some (.addImm 3 0x05) ∧ decodeTableWord 16 0xC30F = some (.rnd 3 0x0F) := by decide

theorem test_decode_group8 : decodeTableWord 16 0x82F0 = some (.ldReg 2 0xF) ∧
    decodeTableWord 16 0x8011 = some (.or 0 1) ∧ decodeTableWord 16 0x8012 = some (.and 0 1) ∧
    decodeTableWord 16 0x8013 = some (.xor 0 1) ∧ decodeTableWord 16 0x8014 = some (.addReg 0 1) := by decide

theorem test_decode_group8_flags : decodeTableWord 16 0x8F15 = some (.sub 0xF 1) ∧
    decodeTableWord 16 0x8016 = some (.shr 0 1) ∧ decodeTableWord 16 0x8417 = some (.subn 4 1) ∧
    decodeTableWord 16 0x820E = some (.shl 2 0) := by decide

theorem test_decode_display : decodeTableWord 16 0xD125 = some (.drw 1 2 5) ∧
    decodeTableWord 16 0xE29E = some (.skp 2) ∧ decodeTableWord 16 0xE2A1 = some (.sknp 2) ∧
    decodeTableWord 16 0xF30A = some (.ldVxK 3) := by decide

theorem test_decode_timers : decodeTableWord 16 0xF407 = some (.ldVxDt 4) ∧
    decodeTableWord 16 0xF415 = some (.ldDtVx 4) ∧ decodeTableWord 16 0xF418 = some (.ldStVx 4) := by decide

theorem test_decode_index : decodeTableWord 16 0xA300 = some (.ldI 0x300) ∧
    decodeTableWord 16 0xF21E = some (.addIVx 2) ∧ decodeTableWord 16 0xF029 = some (.ldFVx 0) ∧
    decodeTableWord 16 0xF033 = some (.ldBVx 0) ∧ decodeTableWord 16 0xF555 = some (.ldMemVx 5) ∧
    decodeTableWord 16 0xF165 = some (.ldVxMem 1) := by decide

/-- E1 to E8: unimplemented words. -/
theorem test_decode_unimplemented : decodeTableWord 16 0x0000 = none ∧ decodeTableWord 16 0x0123 = none ∧
    decodeTableWord 16 0x8008 = none ∧ decodeTableWord 16 0x800F = none ∧ decodeTableWord 16 0xE000 = none ∧
    decodeTableWord 16 0xE09F = none ∧ decodeTableWord 16 0xF000 = none ∧ decodeTableWord 16 0xF0FF = none := by
  decide

/-- R114: the words that `STRICT_DECODE` refuses. -/
theorem test_decode_strict : decodeWord true 0x01E0 = .error (.unimplemented 0x01E0) ∧
    decodeWord true 0x5123 = .error (.unimplemented 0x5123) ∧ decodeWord true 0x5120 = .ok (.seReg 1 2 0) := by decide

theorem test_decode_truncated : decode false [0x6A] = .error .truncated := by decide

/-! ### Control flow -/

/-- C6. -/
theorem test_ret : see (ran 0x00EE fun s => { s with sp := 1, stack := s.stack.set 0 0x204 })
    (fun t => (t.sp, outcome t)) = some (0, ⟨0x206, 1, 0, 0, .run⟩) := by decide

/-- C7. -/
theorem test_ret_atCall : see (ran 0x00EE fun s => withCfg (fun c => { c with returnResume := .atCall })
    { s with sp := 1, stack := s.stack.set 0 0x204 }) (fun t => (t.sp, t.pc)) = some (0, 0x204) := by decide

/-- C8. -/
theorem test_ret_underflow : see (ran 0x00EE same) outcome = some ⟨0x200, 2, 3, 0x200, .halted⟩ := by decide

/-- C2. -/
theorem test_jp_odd : see (ran 0x1201 same) outcome = some ⟨0x201, 1, 0, 0, .run⟩ := by decide

/-- C4. -/
theorem test_call : see (ran 0x220A fun s => s.setPc 0x204) (fun t => (t.entry 0, t.sp, t.pc)) =
    some (0x204, 1, 0x20A) := by decide

/-- C5. -/
theorem test_call_overflow : see (ran 0x220A fun s => { s with sp := 16 }) (fun t => (t.sp, outcome t)) =
    some (16, ⟨0x200, 2, 2, 0x200, .halted⟩) := by decide

/-- C10. -/
theorem test_jpo : see (ran 0xBFFF fun s => s.writeV 0 0xFF) (fun t => (t.i, outcome t)) =
    some (0x10FE, ⟨0x202, 0, 0, 0, .run⟩) := by decide

/-- C11 and C12. -/
theorem test_seImm : see (ran 0x3A07 fun s => s.writeV 0xA 7) outcome = some ⟨0x204, 1, 0, 0, .run⟩ ∧
    see (ran 0x3A07 fun s => s.writeV 0xA 8) outcome = some ⟨0x202, 0, 0, 0, .run⟩ := by decide

/-- C13 and C14. -/
theorem test_sneImm : see (ran 0x4A07 fun s => s.writeV 0xA 7) (·.pc) = some 0x202 ∧
    see (ran 0x4A07 fun s => s.writeV 0xA 8) (·.pc) = some 0x204 := by decide

/-- C16 and C17. -/
theorem test_seReg : see (ran 0x5120 fun s => (s.writeV 1 0x33).writeV 2 0x34) (·.pc) = some 0x202 ∧
    see (ran 0x5123 fun s => (s.writeV 1 0x33).writeV 2 0x33) (·.pc) = some 0x204 := by decide

/-- C19 and C20. -/
theorem test_sneReg : see (ran 0x9120 fun s => (s.writeV 1 0x33).writeV 2 0x34) (·.pc) = some 0x204 ∧
    see (ran 0x9110 fun s => s.writeV 1 0x33) (·.pc) = some 0x202 := by decide

/-! ### Arithmetic and logic -/

/-- A1 and A2. -/
theorem test_ldImm : see (ran 0x6A07 same) (fun t => (t.readV 0xA, outcome t)) =
      some (7, ⟨0x202, 0, 0, 0, .run⟩) ∧
    see (ran 0x6F00 fun s => s.writeV vf 1) (·.readV vf) = some 0 := by decide

/-- A3. -/
theorem test_addImm : see (ran 0x7305 fun s => (s.writeV 3 0xFE).writeV vf 0x55) (fun t => (t.readV 3, t.readV vf)) =
    some (0x03, 0x55) := by decide

/-- A5. -/
theorem test_ldReg : see (ran 0x82F0 fun s => s.writeV vf 1) (·.readV 2) = some 1 := by decide

/-- A6. -/
theorem test_or : see (ran 0x8011 fun s => ((s.writeV 0 0xF0).writeV 1 0x0F).writeV vf 7)
    (fun t => (t.readV 0, t.readV vf)) = some (0xFF, 7) := by decide

/-- A7. -/
theorem test_and : see (ran 0x8012 fun s => (s.writeV 0 0xF3).writeV 1 0x3F) (·.readV 0) = some 0x33 := by decide

/-- A8 and A9. -/
theorem test_xor : see (ran 0x8013 fun s => (s.writeV 0 0xFF).writeV 1 0x0F) (·.readV 0) = some 0xF0 ∧
    see (ran 0x8553 fun s => s.writeV 5 0x5A) (·.readV 5) = some 0 := by decide

/-- A11 and A12. -/
theorem test_addReg : see (ran 0x8014 fun s => (s.writeV 0 0x80).writeV 1 0x80)
    (fun t => (t.readV 0, t.readV vf)) = some (0, 1) ∧
    see (ran 0x8014 fun s => (s.writeV 0 0x7F).writeV 1 0x80) (fun t => (t.readV 0, t.readV vf)) = some (0xFF, 0) := by
  decide

/-- A14 and A15. -/
theorem test_addReg_vf : see (ran 0x8F04 fun s => (s.writeV vf 0xFF).writeV 0 1) (·.readV vf) = some 1 ∧
    see (ran 0x80F4 fun s => (s.writeV 0 0x10).writeV vf 5) (fun t => (t.readV 0, t.readV vf)) = some (0x15, 0) := by
  decide

/-- A16 and A17. -/
theorem test_sub : see (ran 0x8015 fun s => (s.writeV 0 1).writeV 1 2) (fun t => (t.readV 0, t.readV vf)) =
      some (0xFF, 0) ∧
    see (ran 0x8015 fun s => (s.writeV 0 0x42).writeV 1 0x42) (fun t => (t.readV 0, t.readV vf)) = some (0, 1) := by
  decide

/-- A19 and A20. -/
theorem test_sub_vf : see (ran 0x8F15 fun s => (s.writeV vf 5).writeV 1 3) (·.readV vf) = some 1 ∧
    see (ran 0x8F15 fun s => (s.writeV vf 2).writeV 1 3) (·.readV vf) = some 0 := by decide

/-- A24 and A25. -/
theorem test_shr : see (ran 0x8016 fun s => (s.writeV 0 4).writeV 1 0xFF)
      (fun t => (t.readV 0, t.readV vf, t.readV 1)) =
      some (2, 0, 0xFF) ∧
    see (ran 0x8F06 fun s => s.writeV vf 0x81) (·.readV vf) = some 1 := by decide

/-- A26 and A27. -/
theorem test_subn : see (ran 0x8417 fun s => (s.writeV 4 0x10).writeV 1 2) (fun t => (t.readV 4, t.readV vf)) =
      some (0xF2, 0) ∧
    see (ran 0x8017 fun s => (s.writeV 0 2).writeV 1 0x10) (fun t => (t.readV 0, t.readV vf)) = some (0x0E, 1) := by
  decide

/-- A29 and A31. -/
theorem test_shl : see (ran 0x800E fun s => s.writeV 0 0xFF) (fun t => (t.readV 0, t.readV vf)) = some (0xFE, 1) ∧
    see (ran 0x8F0E fun s => s.writeV vf 0x40) (·.readV vf) = some 0 := by decide

/-- A32. -/
theorem test_rnd : see (ran 0xC30F same) (·.readV 3) = some 0x07 := by decide

/-! ### Index register, memory, BCD and font -/

/-- M1. -/
theorem test_ldI : see (ran 0xA300 same) (·.i) = some 0x300 := by decide

/-- M3 and M4. -/
theorem test_addIVx : see (ran 0xF01E fun s => ((s.setI 0xFFF).writeV 0 1).writeV vf 0x33)
      (fun t => (t.i, t.readV vf, t.status)) = some (0x1000, 0x33, .advance) ∧
    see (ran 0xF01E fun s => (s.setI 0xFFFF).writeV 0 1) (·.i) = some 0 := by decide

/-- M5, M6 and M7. -/
theorem test_ldFVx : see (ran 0xF029 fun s => s.writeV 0 0x0A) (·.i) = some 0x032 ∧
    see (ran 0xF029 fun s => s.writeV 0 0x0F) (·.i) = some 0x04B ∧
    see (ran 0xF029 fun s => (s.setI 0x123).writeV 0 0x10) (fun t => (t.i, t.status)) = some (0x123, .advance) := by
  decide

/-- M9 and M11. -/
theorem test_ldBVx : see (ran 0xF033 fun s => (s.setI 0x300).writeV 0 157)
      (fun t => (t.memRead 0x300, t.memRead 0x301, t.memRead 0x302, t.i)) = some (7, 5, 1, 0x300) ∧
    see (ran 0xF033 fun s => (s.setI 0x300).writeV 0 255)
      (fun t => (t.memRead 0x300, t.memRead 0x301, t.memRead 0x302)) = some (5, 5, 2) := by decide

/-- M14 and M15. -/
theorem test_ldBVx_edge : see (ran 0xF033 fun s =>
      (((s.setI 0xFFE).writeV 0 157).memWrite 0xFFE 0xAA).memWrite 0xFFF 0xBB)
      (fun t => (t.memRead 0xFFE, t.memRead 0xFFF, outcome t)) =
        some (0xAA, 0xBB, ⟨0x200, 2, 4, 0xFFE, .halted⟩) ∧
    see (ran 0xF033 fun s => (s.setI 0xFFD).writeV 0 157)
      (fun t => (t.memRead 0xFFD, t.memRead 0xFFE, t.memRead 0xFFF)) = some (7, 5, 1) := by decide

/-- M17 and M18. -/
theorem test_ldMemVx : see (ran 0xF555 fun s => (s.setI 0x1000).writeV 5 0x42) outcome =
      some ⟨0x200, 2, 4, 0x1000, .halted⟩ ∧
    see (ran 0xF355 fun s => (((s.setI 0x300).writeV 0 0x11).writeV 1 0x22).writeV 3 0x44)
      (fun t => (t.memRead 0x300, t.memRead 0x301)) = some (0x44, 0) := by decide

/-- M20 and M21. -/
theorem test_ldVxMem : see (ran 0xFF65 fun s => (s.setI 0x300).memWrite 0x300 0x99) (·.readV vf) = some 0x99 ∧
    see (ran 0xF065 fun s => (s.setI 0xFFF).memWrite 0xFFF 0x5C) (·.readV 0) = some 0x5C := by decide

/-! ### Display, keyboard and timers -/

/-- The pixels of a row that are on, by column. -/
def rowOn (t : State) (py : Nat) : List Nat := (List.range 64).filter fun px => t.fb.pixel px py

/-- D1. -/
theorem test_cls : see (ran 0x00E0 fun s => (s.setFb (s.fb.toggle 3 4)).writeV vf 7)
    (fun t => (rowOn t 4, t.readV vf, t.status)) = some ([], 7, .advance) := by decide

/-- D4. -/
theorem test_drw_glyph : see (ran 0xD015 same)
    (fun t => (rowOn t 0, rowOn t 1, rowOn t 4, rowOn t 5, t.readV vf)) =
      some ([0, 1, 2, 3], [0, 3], [0, 1, 2, 3], [], 0) := by decide

/-- D5 and D6. -/
theorem test_drw_edge : see (ran 0xD011 fun s => s.writeV 0 0x3E) (fun t => (rowOn t 0, t.readV vf)) =
      some ([0, 1, 62, 63], 0) ∧
    see (ran 0xD011 fun s => withCfg (fun c => { c with fbEdge := .clip }) (s.writeV 0 0x3E)) (rowOn · 0) =
      some [62, 63] := by decide

/-- D7. -/
theorem test_drw_bottom : see (ran 0xD012 fun s => s.writeV 1 0x1F) (fun t => (rowOn t 31, rowOn t 0)) =
    some ([0, 1, 2, 3], [0, 3]) := by decide

/-- D9 and D10. -/
theorem test_drw_collision : see (ran 0xD001 fun s => s.setFb (s.fb.toggle 1 0)) (fun t => (rowOn t 0, t.readV vf)) =
      some ([0, 2, 3], 1) ∧
    see (ran 0xDF01 fun s => s.writeV vf 8) (fun t => (rowOn t 0, t.readV vf)) = some ([8, 9, 10, 11], 0) := by
  decide

/-- D11 and D12. -/
theorem test_drw_range : see (ran 0xD010 fun s => (s.setI 0xFFFF).writeV vf 9) (fun t => (t.readV vf, t.status)) =
      some (0, .advance) ∧
    see (ran 0xD013 fun s => ((s.setI 0xFFE).writeV vf 9).setFb (s.fb.toggle 0 0))
      (fun t => (rowOn t 0, t.readV vf, outcome t)) = some ([0], 9, ⟨0x200, 2, 4, 0xFFE, .halted⟩) := by decide

/-- D13 and D15. -/
theorem test_skp : see (ran 0xE29E fun s => (s.setKey 5).writeV 2 5) (fun t => (t.pc, t.key)) = some (0x204, 5) ∧
    see (ran 0xE29E same) (·.pc) = some 0x204 := by decide

/-- D16. -/
theorem test_skp_clears : see (ran 0xE29E fun s => withCfg (fun c => { c with keyClear := .afterSkipRead })
    ((s.setKey 5).writeV 2 5)) (fun t => (t.pc, t.key)) = some (0x204, 0) := by decide

/-- D17 and D18. -/
theorem test_sknp : see (ran 0xE2A1 fun s => s.writeV 2 5) (·.pc) = some 0x204 ∧
    see (ran 0xE2A1 fun s => (s.setKey 5).writeV 2 5) (·.pc) = some 0x202 := by decide

/-- D19 and D20. -/
theorem test_ldVxK : see (ran 0xF30A fun s => s.setKey 7) (fun t => (t.readV 3, outcome t)) =
      some (7, ⟨0x202, 0, 0, 0, .run⟩) ∧
    see (ran 0xF30A same) outcome = some ⟨0x200, 0, 0, 0, .waitKey 3⟩ := by decide

/-- A core that waits for a key for `V[3]`, with the keyboard's answer. -/
def waiting (answer : Option Byte) : State :=
  { State.reset with phase := .waitKey 3, inputs := [⟨0, answer, 0, none⟩] }

/-- D21, and a core whose keyboard has not answered. -/
theorem test_key_wait : see (step (waiting (some 0x0B))) (fun t => (t.key, t.readV 3, t.pc, t.phase)) =
      some (0x0B, 0x0B, 0x202, .run) ∧
    see (step (waiting none)) (fun t => (t.pc, t.phase)) = some (0x200, .waitKey 3) := by decide

/-- D22. -/
theorem test_ldVxDt : see (ran 0xF407 fun s => s.setDt 0x3C) (·.readV 4) = some 0x3C := by decide

/-- D23. -/
theorem test_ldDtVx : see (ran 0xF415 fun s => s.writeV 4 0x3C) (·.dt) = some 0x3C := by decide

/-- D24. -/
theorem test_ldStVx : see (ran 0xF418 fun s => s.writeV 4 2) (·.st) = some 2 := by decide

/-- D25 and D26. -/
theorem test_ticks : ticksTimer 1 1 = 0 ∧ ticksTimer 3 0 = 0 ∧ ticksTimer 3 5 = 2 := by decide

/-! ### Faults, fetch and the whole step -/

/-- E9 and E10. -/
theorem test_unimplemented : see (ran 0x8008 fun s => withCfg (fun c => { c with failPolicy := .skip }) s) outcome =
      some ⟨0x202, 2, 1, 0x8008, .run⟩ ∧
    see (ran 0x8008 fun s => (s.writeV 0 1).setI 0x300) (fun t => (t.readV 0, t.i, outcome t)) =
      some (1, 0x300, ⟨0x200, 2, 1, 0x8008, .halted⟩) := by decide

/-- C18. -/
theorem test_strict_decode : see (ran 0x5123 fun s => withCfg (fun c => { c with strictDecode := true }) s) outcome =
    some ⟨0x200, 2, 1, 0x5123, .halted⟩ := by decide

/-- C23, and the last address a word can be fetched from. -/
theorem test_fetch_range : see (step (State.reset.setPc 0xFFF)) outcome = some ⟨0xFFF, 2, 5, 0xFFF, .halted⟩ ∧
    see (ran 0x1FFF fun s => s.setPc 0xFFE) (·.pc) = some 0xFFF := by decide

/-- R313: a halted core is a fault outcome. -/
theorem test_halted :
    (match step { State.reset with phase := .halted, faultCause := .memRange, faultInfo := 0x1000 } with
    | .fault r => decide (r = .halted .memRange 0x1000)
    | .next _ => false
    | .refused _ => false) = true := by decide

/-- R332 and R334: ticks and a key write between two steps. -/
theorem test_between : see (step { placed 0x6A07 (·.setDt 2) with inputs := [⟨0, none, 3, some 9⟩] })
    (fun t => (t.dt, t.key, t.inputs, t.draws)) = some (0, 9, [], 1) := by decide

/-- R351: the loader places the image and the font, and refuses an image of 3585 bytes. -/
theorem test_load : ((State.load Config.Params.default [0x12, 0x00]).map fun s =>
    (s.memRead 0x200, s.memRead 0x201, s.memRead 0x000, s.memRead 0x04F, s.memRead 0x050)) =
      some (0x12, 0x00, 0xF0, 0x80, 0x00) ∧
    State.load Config.Params.default (List.replicate 3585 0) = none := by decide +kernel

/-- R340: the transactions of the step of M9. -/
theorem test_transactions : (placed 0xF033 fun s => (s.setI 0x300).writeV 0 157).transactions =
    [.fetchRead 0x200, .fetchRead 0x201, .dataWrite 0x300 7, .dataWrite 0x301 5, .dataWrite 0x302 1] := by
  decide

/-- R354: a jump to itself is where a run is complete. -/
theorem test_complete : (placed 0x1200 same).complete = true ∧ (placed 0x1202 same).complete = false := by
  decide

/-- R353: glyphs A and F of the font, where the loader leaves them. -/
theorem test_font : State.reset.mem.readBytes State.reset.cfg 0x032 5 = [0xF0, 0x90, 0xF0, 0x90, 0x90] ∧
    State.reset.mem.readBytes State.reset.cfg 0x04B 5 = [0xF0, 0x80, 0xF0, 0x80, 0x80] ∧ Config.fontData.length = 80 := by decide

/-- R115: P2 of 95_test_vectors.md, with a label for the subroutine, gives P2's words. -/
theorem test_assemble : assemble 0x200 ["LD V0, 0x9D    ; 157".toList, "LD I, 0x300".toList, "CALL sub".toList,
      "LD v1, [I]".toList, "JP 520".toList, "sub:".toList, "LD B, V0".toList, "RET".toList] =
    some [0x60, 0x9D, 0xA3, 0x00, 0x22, 0x0A, 0xF1, 0x65, 0x12, 0x08, 0xF0, 0x33, 0x00, 0xEE] := by decide

/-- R115: a number outside its field's range, an unknown label and an unknown mnemonic are rejected. -/
theorem test_assemble_rejects : assemble 0x200 ["LD V0, 256".toList] = none ∧ assemble 0x200 ["JP nowhere".toList] = none ∧
    assemble 0x200 ["NOP".toList] = none ∧ assemble 0x200 ["SHR V3".toList] = some [0x83, 0x06] := by decide

/-- Parameters unlike the defaults, as R7 allows: a deeper memory, a shallow stack, a small screen, another font. -/
def small : Config.Params :=
  { Config.Params.default with
    memSize := 8192, stackDepth := 1, programStart := 0x300, fontBase := 0x1F00, fontData := [0x11, 0x22]
    fbWidth := 2, fbHeight := 1 }

/-- R7, R47, R351, R36: where a program starts, where the font stands, how deep the stack is. -/
theorem test_parameters : ((State.load small [0x23, 0x00]).map fun s =>
      (s.pc, s.memRead 0x300, s.memRead 0x1F01, s.memRead 0, s.fontBase)) = some (0x300, 0x23, 0x22, 0, 0x1F00) ∧
    see (exec (.call 0x300) (State.resetWith small)) (fun t => (t.sp, t.entry 0)) = some (1, 0x300) ∧
    see (exec (.call 0x300) { State.resetWith small with sp := 1 }) (·.faultCause) = some .stackOverflow := by decide

/-- R333, by hand: on a screen 2 wide the row 0x11 lands twice on column 1, which goes on and off again and collides. -/
theorem test_drw_small : see (exec (.drw 0 0 1) { State.resetWith small with i := 0x1F00 })
      (fun t => (t.fb.pixel 0 0, t.fb.pixel 1 0, t.readV vf)) = some (false, false, 1) ∧
    see (exec (.drw 0 0 1) { State.resetWith { small with fbEdge := .clip } with i := 0x1F01 })
      (fun t => (t.fb.pixel 0 0, t.fb.pixel 1 0, t.readV vf)) = some (false, false, 0) := by decide

/-! ### Witnesses: states and operands that meet the hypotheses of the statements -/

theorem witness_DecodeOfEncode : (Instr.seReg 1 2 0).wf true = true ∧ (Instr.cls 5).wf false = true := by decide

theorem witness_EncodeOfDecode : decodeWord true 0x9120 = .ok (.sneReg 1 2 0) ∧
    decodeWord false 0x912F = .ok (.sneReg 1 2 0xF) := by decide

theorem witness_OpcodeMap : decodeWord false 0x8014 = .ok (.addReg 0 1) ∧
    matchesRow false 0x8014 (.addReg 3 3) = true := by decide

theorem witness_AssemblerForms : (Instr.drw 1 2 15).wf true = true ∧ build .shl [.reg 4] = some (.shl 4 0) ∧
    build .jp [.num 4095] = some (.jp 4095) := by decide

theorem witness_AddRegister_Subtract_Shift : (14 : Nibble) ≠ vf := by decide

/-- `JP` to the last address of memory. -/
theorem witness_Jump : State.reset.phase = .run ∧ State.reset.cfg.memSize ≤ (0xFFF : Addr12).toNat + 1 := by decide

/-- A call stack with `k` entries in use. -/
def depth (k : Nat) : State := { State.reset with sp := k }

theorem witness_CallPushesOwnAddress : (depth 15).sp < (depth 15).cfg.stackDepth ∧
    (depth 15).stack.length = (depth 15).cfg.stackDepth ∧ (depth 16).cfg.stackDepth ≤ (depth 16).sp := by decide

theorem witness_ReturnResumes : 0 < (depth 1).sp ∧ (depth 0).sp = 0 ∧
    (depth 1).cfg.returnResume = .afterCall ∧
    (withCfg (fun c => { c with returnResume := .atCall }) (depth 16)).cfg.returnResume = .atCall := by decide

theorem witness_ReturnUndoesCall : (depth 15).sp < (depth 15).cfg.stackDepth ∧
    (depth 15).stack.length = (depth 15).cfg.stackDepth ∧ (depth 15).cfg.returnResume = .afterCall := by decide

theorem witness_SkipImmediate : State.reset.readV 3 = 0 ∧ State.reset.readV 3 ≠ 1 := by decide

theorem witness_SkipRegister : State.reset.readV 3 = State.reset.readV 4 ∧
    (State.reset.writeV 3 1).readV 3 ≠ (State.reset.writeV 3 1).readV 4 := by decide

theorem witness_ExactlyOneSkips : (Instr.skp 1, Instr.sknp 1) ∈ [(Instr.seImm 1 0, Instr.sneImm 1 0),
    (Instr.seReg 1 2 3, Instr.sneReg 1 2 3), (Instr.skp 1, Instr.sknp 1)] := by decide

theorem witness_LoadFontAddress : ((State.reset.writeV 0 15).readV 0).toNat ≤ 15 ∧
    15 < ((State.reset.writeV 0 16).readV 0).toNat := by decide

theorem witness_FontLookupLaws : ((State.reset.writeV 0 14).readV 0).toNat < 15 ∧
    ((State.reset.writeV 0 15).readV 0).toNat = ((State.reset.writeV 0 14).readV 0).toNat + 1 ∧
    (State.reset.writeV 0 15).fontBase = (State.reset.writeV 0 14).fontBase ∧
    16 ≤ ((State.reset.writeV 0 16).readV 0).toNat := by decide

/-- The last `I` at which three digits fit, and the first at which they do not. -/
theorem witness_StoreDecimal : (State.reset.setI 0xFFD).i.toNat + 2 < State.reset.cfg.memSize ∧
    State.reset.cfg.memSize ≤ (State.reset.setI 0xFFE).i.toNat + 2 ∧
    State.reset.pc.toNat + 1 < State.reset.cfg.memSize := by decide

theorem witness_DecimalDigitsSpellValue : (State.reset.setI 0xFFD).i.toNat + 2 < State.reset.cfg.memSize := by decide

theorem witness_SpillRegister_FillRegister : (State.reset.setI 0xFFF).i.toNat < State.reset.cfg.memSize ∧
    State.reset.cfg.memSize ≤ (State.reset.setI 0x1000).i.toNat := by decide

theorem witness_FillAfterSpill : (State.reset.setI 0xFFF).i.toNat < State.reset.cfg.memSize := by decide

theorem witness_CanonicalMemory : Memory.wf [] Config.Params.default ∧
    Memory.wf [(0, 1), (0x300, 7)] Config.Params.default := by decide

/-- No row, the last row that fits, and the first that does not. -/
theorem witness_DrawSprite_range : (0 : Nibble) = 0 ∧
    (State.reset.setI 0xFFF).i.toNat + (1 : Nibble).toNat - 1 < State.reset.cfg.memSize ∧
    (2 : Nibble) ≠ 0 ∧ State.reset.cfg.memSize ≤ (State.reset.setI 0xFFF).i.toNat + (2 : Nibble).toNat - 1 := by
  decide

/-- The first row of glyph 0 covers the pixel (0, 0), which may be on or off. -/
theorem witness_DrawSprite_collision : State.reset.Covers 0 1 1 0 0 ∧ State.reset.fb.pixel 0 0 = false ∧
    (State.reset.fb.toggle 0 0).pixel 0 0 = true ∧ 8 ≤ State.reset.cfg.fbWidth ∧
    (1 : Nibble).toNat ≤ State.reset.cfg.fbHeight :=
  ⟨⟨0, by decide, 0, by decide, by decide⟩, by decide, by decide, by decide, by decide⟩

/-- On a framebuffer 2 wide the first row of glyph 0 lands twice on (0, 0). -/
theorem witness_DrawSprite_overlap :
    (withCfg (fun c => { c with fbWidth := 2 }) State.reset).Covers 0 1 1 0 0 ∧
    (withCfg (fun c => { c with fbWidth := 2 }) State.reset).hits 0 1 1 0 0 = 2 :=
  ⟨⟨0, by decide, 0, by decide, by decide⟩, by decide⟩

/-- A first draw that leaves the registers of its coordinates as they were, on a framebuffer that is off. -/
theorem witness_DrawTwiceRestores :
    see (exec (.drw 0 1 5) State.reset) (fun t => (t.readV 0, t.readV 1)) =
      some (State.reset.readV 0, State.reset.readV 1) ∧
    State.reset.i.toNat + (5 : Nibble).toNat - 1 < State.reset.cfg.memSize ∧
    State.reset.fb.wf ∧ 8 ≤ State.reset.cfg.fbWidth ∧ (5 : Nibble).toNat ≤ State.reset.cfg.fbHeight ∧
    (∀ px py, State.reset.Covers 0 1 5 px py → State.reset.fb.pixel px py = false) :=
  ⟨by decide, by decide, by decide, by decide, by decide, fun px py _ => Framebuffer.pixel_blank px py⟩

theorem witness_SkipOnKey : State.reset.readV 0 = State.reset.key ∧
    State.reset.readV 0 ≠ (State.reset.setKey 5).key ∧
    State.reset.cfg.keyClear = .never ∧
    (withCfg (fun c => { c with keyClear := .afterSkipRead }) State.reset).cfg.keyClear = .afterSkipRead := by decide

theorem witness_LoadKeyOrWait : (State.reset.setKey 255).key ≠ 0 ∧ State.reset.key = 0 := by decide

theorem witness_KeyAnswerCompletes : (waiting (some 255)).phase = .waitKey 3 ∧ (255 : Byte) ≠ 0 ∧
    (waiting (some 255)).currentInputs.keyAnswer = some 255 := by decide

theorem witness_KeyWaitHolds : (waiting none).phase = .waitKey 3 ∧ (waiting none).currentInputs.keyAnswer = none ∧
    (waiting (some 0)).currentInputs.keyAnswer = some 0 := by decide

/-- What decodes in a placed state. -/
theorem witness_StepRunsDecoded : (placed 0x6A07 same).phase = .run ∧ Decodes (placed 0x6A07 same) (.ldImm 0xA 7) :=
  ⟨by decide, by decide, by decide⟩

/-- Each fault of R311 is due somewhere. -/
theorem witness_FaultsAreThoseListed :
    FaultDue (State.reset.setPc 0xFFF) .fetchRange 0xFFF ∧
    FaultDue (placed 0x8008 same) .unimplemented 0x8008 ∧
    FaultDue (placed 0x2300 fun s => { s with sp := 16 }) .stackOverflow 0x200 ∧
    FaultDue (placed 0x00EE same) .stackUnderflow 0x200 ∧
    FaultDue (placed 0xD012 fun s => s.setI 0xFFF) .memRange 0xFFF :=
  ⟨.fetch (by decide), .word 0x8008 (.unimplemented 0x8008) ⟨by decide, by decide, by decide⟩ (by decide),
    .call 0x300 ⟨by decide, by decide⟩ (by decide), .ret 0 ⟨by decide, by decide⟩ (by decide),
    .data (.drw 0 1 2) 1 ⟨by decide, by decide⟩ (by decide) (by decide)⟩

/-- In the state of `LD VA, 7` no fault is due. -/
theorem witness_no_fault_due (cause : FaultCause) (info : Word) : ¬ FaultDue (placed 0x6A07 same) cause info := by
  have word : (placed 0x6A07 same).fetchWord = some 0x6A07 := by decide
  have decoded {i : Instr} (h : Decodes (placed 0x6A07 same) i) : i = .ldImm 0xA 7 := by
    have e := h.bytes.symm.trans witness_StepRunsDecoded.2.bytes
    cases e
    rfl
  intro h
  cases h with
  | fetch h => exact absurd h (by decide)
  | word _ e h bad =>
    have hw : info = 0x6A07 := by
      have high := h.high
      have low := h.low
      have h1 : (placed 0x6A07 same).memRead (placed 0x6A07 same).pc.toNat = 0x6A := by decide
      have h2 : (placed 0x6A07 same).memRead ((placed 0x6A07 same).pc.toNat + 1) = 0x07 := by decide
      rw [h1] at high
      rw [h2] at low
      rw [← wordOfBytes_bytes info, high, low]
      decide
    subst hw
    have good : decodeWord (placed 0x6A07 same).cfg.strictDecode 0x6A07 = .ok (.ldImm 0xA 7) := by decide
    rw [good] at bad
    cases bad
  | call nnn h full => cases decoded h
  | ret ign h empty => cases decoded h
  | data i k h reached outside =>
    rw [decoded h] at reached
    exact absurd reached (Nat.not_lt_zero k)

theorem witness_OnlyHaltedCoreStops : ({ State.reset with phase := .halted } : State).phase = .halted ∧
    State.reset.phase ≠ .halted := by decide

/-- A step that halts the core. -/
theorem witness_OnlyFaultsHalt : see (ran 0x00EE same) (·.phase) = some .halted := by decide

/-- The last address a word can be fetched from, and the first it cannot. -/
theorem witness_FetchIsBigEndian : (State.reset.setPc 0xFFE).pc.toNat + 1 < State.reset.cfg.memSize ∧
    State.reset.cfg.memSize ≤ (State.reset.setPc 0xFFF).pc.toNat + 1 ∧ (State.reset.setPc 0xFFF).phase = .run := by
  decide

theorem witness_NextFetchSeesStore : (State.reset.setI 0x202).i = State.reset.pc + 2 ∧
    (State.reset.setI 0x202).i.toNat + 2 < State.reset.cfg.memSize := by decide

theorem witness_BetweenSteps : State.reset.phase ≠ .halted ∧
    (⟨0, none, 3, some 9⟩ : Config.Inputs).keyWrite = some 9 ∧
    (quiet 0).keyWrite = none := by decide

/-- A step in which each timer rises. -/
theorem witness_TimersRiseOnlyByWrite : see (ran 0xF415 fun s => s.writeV 4 2) (·.dt) = some 2 ∧
    see (ran 0xF418 fun s => s.writeV 4 2) (·.st) = some 2 ∧ State.reset.dt = 0 ∧ State.reset.st = 0 := by decide

/-- Instructions that change the state elements, each the one it writes. -/
theorem witness_WritersOfState : see (exec (.ldI 0x300) State.reset) (·.i) = some 0x300 ∧
    see (exec (.call 0x300) State.reset) (·.sp) = some 1 ∧
    see (exec (.ldDtVx 1) (State.reset.writeV 1 2)) (·.dt) = some 2 ∧
    see (exec (.ldStVx 1) (State.reset.writeV 1 2)) (·.st) = some 2 ∧
    see (exec (.skp 1) (withCfg (fun c => { c with keyClear := .afterSkipRead }) (State.reset.setKey 5))) (·.key) =
      some 0 ∧
    see (exec (.ldMemVx 1) ((State.reset.setI 0x300).writeV 1 2)) (·.mem) = some [(0x300, 2)] ∧
    see (exec (.drw 0 0 1) State.reset) (fun t => t.fb.pixel 0 0) = some true := by decide

theorem witness_WritersOfFlag : see (exec (.addReg 0 1) ((State.reset.writeV 0 0xFF).writeV 1 1)) (·.readV vf) =
    some 1 ∧ State.reset.readV vf = 0 := by decide

theorem witness_InvariantAtReset : Config.Params.default.programStart.toNat ≤ Config.Params.default.memSize ∧
    State.load Config.Params.default [] = some State.reset := by decide

theorem witness_reset_invariant : State.reset.Inv where
  memory_canonical := by decide
  memory_within := by decide
  failed_has_cause := by decide
  no_cause_no_info := by decide
  halted_by_fault := by decide
  stack_size := by decide
  stack_bound := by decide
  pixels_canonical := by decide
  pixels_within := by decide

/-- A step from a state with the invariant: the reset state with given answers, whose word 0x0000 faults. -/
theorem witness_StepKeepsInvariant : ({ State.reset with inputs := [quiet 0] } : State).Inv ∧
    see (step { State.reset with inputs := [quiet 0] }) outcome = some ⟨0x200, 2, 1, 0, .halted⟩ :=
  ⟨⟨by decide, by decide, by decide, by decide, by decide, by decide, by decide, by decide, by decide⟩, by decide⟩

theorem witness_StepKeepsParameters : see (ran 0x6A07 same) (·.cfg) = some Config.Params.default := by decide

/-- The longest image that fits and the shortest that does not, by their lengths. -/
theorem witness_LoaderPlacesImage :
    Config.Params.default.programStart.toNat ≤ Config.Params.default.memSize ∧
    (List.replicate 3584 (0 : Byte)).length ≤
      Config.Params.default.memSize - Config.Params.default.programStart.toNat ∧
    Config.Params.default.memSize - Config.Params.default.programStart.toNat <
      (List.replicate 3585 (0 : Byte)).length := by
  rw [List.length_replicate, List.length_replicate]
  decide

theorem witness_TransactionsAccountForStep : see (ran 0xF355 fun s => (s.setI 0x300).writeV 3 0x44) (·.memRead 0x300) =
      some 0x44 ∧
    (placed 0xF355 fun s => (s.setI 0x300).writeV 3 0x44).transactions =
      [.fetchRead 0x200, .fetchRead 0x201, .dataWrite 0x300 0x44] := by decide

end Sys2Proof.Tests
end

section
/-! The collaborators' answers (00_scope.md R8, log 2): what is fixed for the next step is what the step is given. -/
namespace Sys2Proof.Machine

/-- The answers fixed first are the ones the next step gets (R8, log 2). -/
@[simp] theorem State.currentInputs_cons (s : State) (answers : Config.Inputs) (later : List Config.Inputs) :
    ({ s with inputs := answers :: later } : State).currentInputs = answers := rfl

/-- Settles O50: put the wanted answers in front of those that come after the next step. -/
theorem agentsAreUnconstrained : Obligations.AgentsAreUnconstrained := by
  intro s answers
  exact ⟨answers :: s.inputs.tail, s.currentInputs_cons answers s.inputs.tail, List.tail_cons⟩

end Sys2Proof.Machine
end

section
/-! What one instruction can leave behind: the relation `Effect`, one constructor per kind of write, and the lemma that
ties it to `exec`. Frame and writer statements are case analyses on it. -/
namespace Sys2Proof.Machine

/-- The instruction names `V[x]` as the destination of an ordinary result, with no flag (R183). -/
def Loads (x : Nibble) (i : Instr) : Prop :=
  (∃ kk, i = .ldImm x kk ∨ i = .addImm x kk ∨ i = .rnd x kk) ∨
    (∃ y, i = .ldReg x y ∨ i = .or x y ∨ i = .and x y ∨ i = .xor x y) ∨
      i = .ldVxDt x ∨ i = .ldVxK x ∨ i = .ldVxMem x

/-- The instruction is a flag writer with destination `V[x]` (R182). -/
def LoadsWithFlag (x : Nibble) (i : Instr) : Prop :=
  ∃ y, i = .addReg x y ∨ i = .sub x y ∨ i = .shr x y ∨ i = .subn x y ∨ i = .shl x y

/-- The instruction sets `I` (R35). -/
def LoadsIndex (i : Instr) : Prop :=
  ∃ nnn x, i = .ldI nnn ∨ i = .jpo nnn ∨ i = .addIVx x ∨ i = .ldFVx x

/-- The instruction skips on a comparison of registers and immediates (R143). -/
def SkipsOnRegisters (i : Instr) : Prop :=
  (∃ x kk, i = .seImm x kk ∨ i = .sneImm x kk) ∨ ∃ x y ign, i = .seReg x y ign ∨ i = .sneReg x y ign

/-- `Effect s i t`: from `s` the instruction `i` can leave `t`. Every element written is named, and every guard of a
stack, memory or framebuffer access; the values computed into a register or `I`, and the condition of a skip, are left
open. -/
inductive Effect (s : State) : Instr → State → Prop where
  | load {i x} (dest : Loads x i) (b : Byte) : Effect s i (s.result x b)
  | loadWithFlag {i x} (dest : LoadsWithFlag x i) (b : Byte) (c : Bool) : Effect s i (s.resultWithFlag x b c)
  | loadIndex {i} (writer : LoadsIndex i) (a : Word) : Effect s i (s.setI a).advance
  | skip {i} (skips : SkipsOnRegisters i) (c : Bool) : Effect s i (s.skipIf c)
  | skipOnKey {i x} (skips : i = .skp x ∨ i = .sknp x) (c : Bool) :
    Effect s i ((s.setKey (keyAfterSkipRead s.cfg.keyClear s.key)).skipIf c)
  | jump (nnn : Addr12) : Effect s (.jp nnn) (s.setPc (target nnn)).alreadySet
  | call (nnn : Addr12) (room : s.sp < s.cfg.stackDepth) :
    Effect s (.call nnn)
      (({ s with stack := s.stack.set s.sp s.pc, sp := s.sp + 1 } : State).setPc (target nnn)).alreadySet
  | overflow (nnn : Addr12) (full : s.cfg.stackDepth ≤ s.sp) :
    Effect s (.call nnn) (s.raise .stackOverflow s.pc)
  | ret (ign : Nibble) (used : 0 < s.sp) :
    Effect s (.ret ign) (({ s with sp := s.sp - 1 } : State).setPc
      (resumeAt s.cfg.returnResume (s.entry (s.sp - 1)))).alreadySet
  | underflow (ign : Nibble) (empty : s.sp = 0) : Effect s (.ret ign) (s.raise .stackUnderflow s.pc)
  | clear (ign : Nibble) : Effect s (.cls ign) (s.setFb s.fb.clear).advance
  | draw (x y n : Nibble) (ok : s.rangeOk n.toNat = true) :
    Effect s (.drw x y n) (((s.setFb (s.fb.render s.cfg (s.readV x) (s.readV y) (s.sprite n)).1).writeFlag
      (s.fb.render s.cfg (s.readV x) (s.readV y) (s.sprite n)).2).advance)
  | waitForKey (x : Nibble) (noKey : s.key = 0) : Effect s (.ldVxK x) (s.setPhase (.waitKey x))
  | setDelay (x : Nibble) : Effect s (.ldDtVx x) (s.setDt (s.readV x)).advance
  | setSound (x : Nibble) : Effect s (.ldStVx x) (s.setSt (s.readV x)).advance
  | storeDigits (x : Nibble) (ok : s.rangeOk 3 = true) :
    Effect s (.ldBVx x) (((s.memWrite s.i.toNat (ones (s.readV x))).memWrite (s.i.toNat + 1)
      (tens (s.readV x))).memWrite (s.i.toNat + 2) (hundreds (s.readV x))).advance
  | store (x : Nibble) (ok : s.rangeOk 1 = true) :
    Effect s (.ldMemVx x) (s.memWrite s.i.toNat (s.readV x)).advance
  | outside {i} (bad : s.rangeOk (reachOf i) = false) : Effect s i (s.raise .memRange s.i)

/-- An instruction guarded by the range check of its reach has the effect of its access or the fault (R77, R78). -/
theorem guardRange_effect {s after : State} {i : Instr}
    (access : s.rangeOk (reachOf i) = true → Effect s i after) :
    ∃ t, s.guardRange (reachOf i) after = .next t ∧ Effect s i t := by
  cases ok : s.rangeOk (reachOf i) with
  | true => exact ⟨_, State.guardRange_ok ok after, access ok⟩
  | false => exact ⟨_, State.guardRange_fault ok after, .outside ok⟩

theorem execCall_effect (nnn : Addr12) (s : State) : ∃ t, execCall nnn s = .next t ∧ Effect s (.call nnn) t := by
  unfold execCall
  rcases s.push_cases s.pc with ⟨room, pushed⟩ | ⟨full, refused⟩
  · rw [pushed]; exact ⟨_, rfl, .call nnn room⟩
  · rw [refused]; exact ⟨_, rfl, .overflow nnn full⟩

theorem execRet_effect (ign : Nibble) (s : State) : ∃ t, execRet s = .next t ∧ Effect s (.ret ign) t := by
  unfold execRet
  rcases s.pop_cases with ⟨used, popped⟩ | ⟨empty, refused⟩
  · rw [popped]; exact ⟨_, rfl, .ret ign used⟩
  · rw [refused]; exact ⟨_, rfl, .underflow ign empty⟩

theorem execLdVxK_effect (x : Nibble) (s : State) : ∃ t, execLdVxK x s = .next t ∧ Effect s (.ldVxK x) t := by
  unfold execLdVxK
  by_cases noKey : s.key = 0
  · exact ⟨_, if_pos noKey, .waitForKey x noKey⟩
  · exact ⟨_, if_neg noKey, .load (.inr (.inr (.inr (.inl rfl)))) s.key⟩

/-- Every instruction answers a next state, and one that its effect allows. -/
theorem exec_effect (i : Instr) (s : State) : ∃ t, exec i s = .next t ∧ Effect s i t := by
  cases i with
  | cls ign => exact ⟨_, rfl, .clear ign⟩
  | ret ign => exact execRet_effect ign s
  | jp nnn => exact ⟨_, rfl, .jump nnn⟩
  | call nnn => exact execCall_effect nnn s
  | seImm x kk => exact ⟨_, rfl, .skip (.inl ⟨x, kk, .inl rfl⟩) _⟩
  | sneImm x kk => exact ⟨_, rfl, .skip (.inl ⟨x, kk, .inr rfl⟩) _⟩
  | seReg x y ign => exact ⟨_, rfl, .skip (.inr ⟨x, y, ign, .inl rfl⟩) _⟩
  | sneReg x y ign => exact ⟨_, rfl, .skip (.inr ⟨x, y, ign, .inr rfl⟩) _⟩
  | ldImm x kk => exact ⟨_, rfl, .load (.inl ⟨kk, .inl rfl⟩) _⟩
  | addImm x kk => exact ⟨_, rfl, .load (.inl ⟨kk, .inr (.inl rfl)⟩) _⟩
  | rnd x kk => exact ⟨_, rfl, .load (.inl ⟨kk, .inr (.inr rfl)⟩) _⟩
  | ldReg x y => exact ⟨_, rfl, .load (.inr (.inl ⟨y, .inl rfl⟩)) _⟩
  | or x y => exact ⟨_, rfl, .load (.inr (.inl ⟨y, .inr (.inl rfl)⟩)) _⟩
  | and x y => exact ⟨_, rfl, .load (.inr (.inl ⟨y, .inr (.inr (.inl rfl))⟩)) _⟩
  | xor x y => exact ⟨_, rfl, .load (.inr (.inl ⟨y, .inr (.inr (.inr rfl))⟩)) _⟩
  | addReg x y => exact ⟨_, rfl, .loadWithFlag ⟨y, .inl rfl⟩ _ _⟩
  | sub x y => exact ⟨_, rfl, .loadWithFlag ⟨y, .inr (.inl rfl)⟩ _ _⟩
  | shr x y => exact ⟨_, rfl, .loadWithFlag ⟨y, .inr (.inr (.inl rfl))⟩ _ _⟩
  | subn x y => exact ⟨_, rfl, .loadWithFlag ⟨y, .inr (.inr (.inr (.inl rfl)))⟩ _ _⟩
  | shl x y => exact ⟨_, rfl, .loadWithFlag ⟨y, .inr (.inr (.inr (.inr rfl)))⟩ _ _⟩
  | ldI nnn => exact ⟨_, rfl, .loadIndex ⟨nnn, 0, .inl rfl⟩ _⟩
  | jpo nnn => exact ⟨_, rfl, .loadIndex ⟨nnn, 0, .inr (.inl rfl)⟩ _⟩
  | addIVx x => exact ⟨_, rfl, .loadIndex ⟨0, x, .inr (.inr (.inl rfl))⟩ _⟩
  | ldFVx x => exact ⟨_, rfl, .loadIndex ⟨0, x, .inr (.inr (.inr rfl))⟩ _⟩
  | drw x y n => exact guardRange_effect (i := .drw x y n) (.draw x y n)
  | skp x => exact ⟨_, rfl, .skipOnKey (.inl rfl) _⟩
  | sknp x => exact ⟨_, rfl, .skipOnKey (.inr rfl) _⟩
  | ldVxDt x => exact ⟨_, rfl, .load (.inr (.inr (.inl rfl))) _⟩
  | ldVxK x => exact execLdVxK_effect x s
  | ldDtVx x => exact ⟨_, rfl, .setDelay x⟩
  | ldStVx x => exact ⟨_, rfl, .setSound x⟩
  | ldBVx x => exact guardRange_effect (i := .ldBVx x) (.storeDigits x)
  | ldMemVx x => exact guardRange_effect (i := .ldMemVx x) (.store x)
  | ldVxMem x =>
    exact guardRange_effect (i := .ldVxMem x) fun _ => .load (.inr (.inr (.inr (.inr rfl)))) _

/-- The inversion of `exec`: whatever next state it answers is an effect of the instruction. -/
theorem effect_of_exec {i : Instr} {s t : State} (h : exec i s = .next t) : Effect s i t := by
  obtain ⟨u, answered, effect⟩ := exec_effect i s
  obtain rfl : u = t := Host.Outcome.next.inj (answered.symm.trans h)
  exact effect

end Sys2Proof.Machine
end

section
/-! Who writes what (10_state.md R32, R35 to R43; 20_memory.md R71; 41_arithmetic_logic.md R183). -/
namespace Sys2Proof.Machine

/-- A key test that changes `KEY` clears it, which only one value of `KEY_CLEAR` does (R277). -/
theorem keyClear_of_keyAfterSkipRead_ne {policy : Config.KeyClear} {key : Byte}
    (changed : keyAfterSkipRead policy key ≠ key) : policy = .afterSkipRead := by
  cases policy with
  | never => exact absurd rfl changed
  | afterSkipRead => rfl

/-- Settles O52, by the kinds of effect: a kind that writes an element is one of its named writers, and every other kind
leaves it alone. -/
theorem writersOfState : Obligations.WritersOfState := by
  intro i s t h
  cases effect_of_exec h with
  | loadIndex writer a => exact ⟨fun _ => writer, by simp⟩
  | @skipOnKey _ x skips c =>
    refine ⟨by simp, by simp, by simp, by simp, fun changed => ⟨?_, x, skips⟩, by simp⟩
    exact keyClear_of_keyAfterSkipRead_ne (by simpa using changed)
  | call | ret => simp
  | setDelay | setSound => simp
  | storeDigits | store => simp
  | clear | draw => simp
  | load | loadWithFlag | skip | jump | waitForKey => simp
  | overflow | underflow | outside => simp

/-- Settles O53, by the kinds of effect: beside the flag writers and `DRW`, only a load writes a register, and a load of
another register than VF leaves VF alone. -/
theorem writersOfFlag : Obligations.WritersOfFlag := by
  intro i s t h changed
  cases effect_of_exec h with
  | @load _ x dest b =>
    by_cases isFlag : x = vf
    · subst isFlag; exact .inr dest
    · exact absurd (s.readV_result_ne b (Ne.symm isFlag)) changed
  | @loadWithFlag _ x dest b c =>
    obtain ⟨y, writer⟩ := dest
    exact .inl ⟨x, y, 0, by tauto⟩
  | draw x y n => exact .inl ⟨x, y, n, by simp⟩
  | skip | skipOnKey => exact absurd (by simp) changed
  | loadIndex | jump | call | ret | clear | waitForKey | setDelay | setSound | storeDigits | store =>
    exact absurd rfl changed
  | overflow | underflow | outside => exact absurd rfl changed

/-- The core's step, in any phase, writes neither the parameters nor `FONT_BASE` (R41). -/
theorem coreStep_keeps_parameters {s t : State} (h : coreStep s = .next t) :
    t.cfg = s.cfg ∧ t.fontBase = s.fontBase := by
  cases phase : s.phase with
  | run =>
    rcases coreStep_run phase with ⟨_, e⟩ | ⟨w, _, ⟨_, _, e⟩ | ⟨i, _, e⟩⟩ <;> rw [e] at h
    · cases h; exact ⟨rfl, rfl⟩
    · cases h; exact ⟨rfl, rfl⟩
    · obtain ⟨_, _, _, _, _, _, _, fontBase, cfg, _⟩ := writersOfState i s t h
      exact ⟨cfg, fontBase⟩
  | waitKey x =>
    rw [coreStep_waitKey phase] at h
    cases h
    rcases s.keyWaitStep_cases x with ⟨e, _⟩ | ⟨k, _, _, e⟩ <;> simp [e]
  | halted => simp [coreStep, phase] at h

/-- Settles O56: neither the core's step nor the agents after it write the parameters or `FONT_BASE`. -/
theorem stepKeepsParameters : Obligations.StepKeepsParameters := by
  intro s t h
  obtain ⟨u, core, rfl⟩ := step_next h
  obtain ⟨cfg, _, _, _, _, _, fontBase, _⟩ := u.between_core s.currentInputs
  rw [cfg, fontBase]
  exact coreStep_keeps_parameters core

end Sys2Proof.Machine
end

section
/-! The codes of the status registers (10_state.md R44) and the state at reset and after loading (R47;
70_reset_and_hazards.md R351, R353). -/
namespace Sys2Proof.Machine

theorem Status.code_ne_three (c : Status) : c.code ≠ 3 := by
  cases c <;> decide

theorem FaultCause.code_ne_six_seven (c : FaultCause) : c.code ≠ 6 ∧ c.code ≠ 7 := by
  cases c <;> decide

/-- Settles O45: the codes by the table of R44, the missing ones by its cases. -/
theorem statusCodes : Obligations.StatusCodes :=
  ⟨rfl, rfl, rfl, rfl, rfl, rfl, rfl, rfl, rfl, Status.code_ne_three, FaultCause.code_ne_six_seven⟩

/-- The invariant at reset: memory and framebuffer are empty lists, and no fault is recorded. -/
theorem State.resetWith_inv (cfg : Config.Params) : (State.resetWith cfg).Inv where
  memory_canonical := ⟨.nil, by simp [State.resetWith]⟩
  memory_within := by simp [State.resetWith]
  failed_has_cause := by simp [State.resetWith]
  no_cause_no_info _ := rfl
  halted_by_fault := by simp [State.resetWith]
  stack_size := List.length_replicate
  stack_bound := Nat.zero_le _
  pixels_canonical := .nil
  pixels_within := by simp [State.resetWith, Framebuffer.blank]

/-- What the loader leaves, where it accepts the image (R351). -/
theorem State.load_eq_some {cfg : Config.Params} {image : List Byte} {s : State} (h : State.load cfg image = some s) :
    image.length ≤ cfg.memSize - cfg.programStart.toNat ∧
      s = { State.resetWith cfg with mem := Memory.writeBytes cfg [] cfg.programStart.toNat image } := by
  unfold State.load at h
  split at h
  · next fits => exact ⟨fits, (Option.some.inj h).symm⟩
  · cases h

/-- The loader changes only memory, and keeps its canonical form and its bound. -/
theorem State.load_inv {cfg : Config.Params} {image : List Byte} {s : State}
    (start : cfg.programStart.toNat ≤ cfg.memSize) (h : State.load cfg image = some s) : s.Inv := by
  obtain ⟨room, rfl⟩ := State.load_eq_some h
  have fits : cfg.programStart.toNat + image.length ≤ cfg.memSize := by omega
  have atReset := State.resetWith_inv cfg
  exact { atReset with
    memory_canonical := Memory.writeBytes_wf atReset.memory_canonical _ image
    memory_within := Memory.writeBytes_within atReset.memory_within _ image fits }

/-- Settles O54: reset for all parameters, the default ones among them, and the loader. -/
theorem invariantAtReset : Obligations.InvariantAtReset :=
  ⟨State.resetWith_inv _, State.resetWith_inv, fun _ _ _ start h => State.load_inv start h⟩

/-- The font stands at `FONT_BASE` (R351, R353). -/
theorem initialByte_font {cfg : Config.Params} {k : Nat} {b : Byte} (h : cfg.fontData[k]? = some b) :
    initialByte cfg (cfg.fontBase.toNat + k) = b := by
  simp [initialByte, h]

/-- Outside the font an unlisted address reads as 0 (R351). -/
theorem initialByte_outside {cfg : Config.Params} {a : Nat}
    (h : a < cfg.fontBase.toNat ∨ cfg.fontBase.toNat + cfg.fontData.length ≤ a) : initialByte cfg a = 0 := by
  unfold initialByte
  split
  · rfl
  · exact List.getD_eq_default _ _ (by omega)

theorem State.readV_resetWith (cfg : Config.Params) (x : Nibble) : (State.resetWith cfg).readV x = 0 :=
  Vector.getElem_replicate _

theorem State.entry_resetWith (cfg : Config.Params) (j : Nat) : (State.resetWith cfg).entry j = 0 := by
  simp [State.entry, State.resetWith]

/-- With no image loaded memory reads as the loader's font and zeros (R47, log 6). -/
theorem State.memRead_resetWith (cfg : Config.Params) (a : Nat) : (State.resetWith cfg).memRead a = initialByte cfg a :=
  rfl

/-- Settles O57: each element as the definition of reset gives it, and the default parameters as written. -/
theorem resetValues : Obligations.ResetValues := by
  refine ⟨fun cfg => ?_, rfl, rfl, rfl, rfl, rfl, rfl, rfl, rfl, rfl, rfl, rfl, rfl, rfl, rfl⟩
  refine ⟨State.readV_resetWith cfg, rfl, rfl, rfl, rfl, rfl, rfl, rfl, rfl, rfl, rfl, rfl, rfl, fun k b font => ?_,
    fun a outside => ?_, List.length_replicate, State.entry_resetWith cfg, fun _ _ => rfl, rfl, rfl⟩
  · exact (State.memRead_resetWith cfg _).trans (initialByte_font font)
  · exact (State.memRead_resetWith cfg a).trans (initialByte_outside outside)

end Sys2Proof.Machine
end

section
/-! Each write of a step keeps the machine's invariant (20_memory.md R70, R77, R78; 10_state.md R36, R44;
60_exceptions.md R313, R333): one lemma per operation on the state, then the instructions, the core's step and the step
are put together from them. -/
namespace Sys2Proof.Machine

/-! The invariant does not mention these registers. -/

theorem State.Inv.writeV {s : State} (h : s.Inv) (x : Nibble) (b : Byte) : (s.writeV x b).Inv := { h with }

theorem State.Inv.setPc {s : State} (h : s.Inv) (a : Word) : (s.setPc a).Inv := { h with }

theorem State.Inv.setI {s : State} (h : s.Inv) (a : Word) : (s.setI a).Inv := { h with }

theorem State.Inv.setDt {s : State} (h : s.Inv) (b : Byte) : (s.setDt b).Inv := { h with }

theorem State.Inv.setSt {s : State} (h : s.Inv) (b : Byte) : (s.setSt b).Inv := { h with }

theorem State.Inv.setKey {s : State} (h : s.Inv) (b : Byte) : (s.setKey b).Inv := { h with }

/-! The ways an instruction ends: a status other than FAILED asks that the core is not halted, and a fault records its
cause. -/

theorem State.Inv.advance {s : State} (h : s.Inv) (running : s.phase = .run) : s.advance.Inv :=
  { h with
    failed_has_cause := by simp
    halted_by_fault := by simp [running] }

theorem State.Inv.alreadySet {s : State} (h : s.Inv) (running : s.phase = .run) : s.alreadySet.Inv :=
  { h with
    failed_has_cause := by simp
    halted_by_fault := by simp [running] }

theorem State.Inv.skipIf {s : State} (h : s.Inv) (running : s.phase = .run) (c : Bool) : (s.skipIf c).Inv := by
  cases c with
  | false => exact h.advance running
  | true => exact (h.setPc _).alreadySet running

/-- A fault ends in phase HALTED only under `FAIL_POLICY = HALT` (R313). -/
theorem phaseAfterFault_halted {policy : Config.FailPolicy} (h : phaseAfterFault policy .run = .halted) :
    policy = .halt := by
  cases policy with
  | halt => rfl
  | skip => cases h

theorem State.Inv.raise {s : State} (h : s.Inv) (running : s.phase = .run) {cause : FaultCause}
    (isCause : cause ≠ .none) (info : Word) : (s.raise cause info).Inv :=
  { h with
    failed_has_cause := fun _ => isCause
    no_cause_no_info := fun noCause => absurd noCause isCause
    halted_by_fault := fun halted => ⟨rfl, phaseAfterFault_halted (running ▸ halted)⟩ }

/-- Entering a phase in which the core is not halted. -/
theorem State.Inv.setPhase {s : State} (h : s.Inv) {p : Phase} (running : p ≠ .halted) : (s.setPhase p).Inv :=
  { h with halted_by_fault := fun halted => absurd halted running }

/-! Memory, the framebuffer and the call stack. -/

theorem State.Inv.memWrite {s : State} (h : s.Inv) {a : Nat} (inside : a < s.cfg.memSize) (b : Byte) :
    (s.memWrite a b).Inv :=
  { h with
    memory_canonical := Memory.write_wf h.memory_canonical a b
    memory_within := Memory.write_within h.memory_within b inside }

theorem State.Inv.clearFb {s : State} (h : s.Inv) : (s.setFb s.fb.clear).Inv :=
  { h with
    pixels_canonical := .nil
    pixels_within := by simp [Framebuffer.clear, Framebuffer.blank] }

theorem State.Inv.renderFb {s : State} (h : s.Inv) (x y : Byte) (bytes : List Byte) :
    (s.setFb (s.fb.render s.cfg x y bytes).1).Inv := by
  obtain ⟨canonical, within⟩ := Framebuffer.render_wf h.pixels_canonical h.pixels_within x y bytes
  exact { h with pixels_canonical := canonical, pixels_within := within }

theorem State.Inv.pushed {s : State} (h : s.Inv) (room : s.sp < s.cfg.stackDepth) (a : Word) :
    ({ s with stack := s.stack.set s.sp a, sp := s.sp + 1 } : State).Inv :=
  { h with
    stack_size := (List.length_set ..).trans h.stack_size
    stack_bound := room }

theorem State.Inv.popped {s : State} (h : s.Inv) : ({ s with sp := s.sp - 1 } : State).Inv :=
  { h with stack_bound := (Nat.sub_le ..).trans h.stack_bound }

/-- Every kind of effect keeps the invariant of a running core: a store by its range check (R77, R78), a push by its
room (R37), and each fault by having a cause. -/
theorem Effect.keeps_inv {s t : State} {i : Instr} (effect : Effect s i t) (running : s.phase = .run) (h : s.Inv) :
    t.Inv := by
  cases effect with
  | load _ b => exact (h.writeV _ b).advance running
  | loadWithFlag _ b c => exact ((h.writeV _ b).writeV vf (flagByte c)).advance running
  | loadIndex _ a => exact (h.setI a).advance running
  | skip _ c => exact h.skipIf running c
  | skipOnKey _ c => exact (h.setKey (keyAfterSkipRead s.cfg.keyClear s.key)).skipIf running c
  | jump nnn => exact (h.setPc _).alreadySet running
  | call nnn room => exact ((h.pushed room s.pc).setPc _).alreadySet running
  | ret ign used => exact (h.popped.setPc _).alreadySet running
  | clear ign => exact h.clearFb.advance running
  | draw x y n ok => exact ((h.renderFb _ _ _).writeV vf _).advance running
  | waitForKey x noKey => exact h.setPhase (by simp)
  | setDelay x => exact (h.setDt _).advance running
  | setSound x => exact (h.setSt _).advance running
  | storeDigits x ok =>
    have inside := (s.rangeOk_iff 3).1 ok
    exact (((h.memWrite (inside 0 (by decide)) _).memWrite (inside 1 (by decide)) _).memWrite
      (inside 2 (by decide)) _).advance running
  | store x ok => exact (h.memWrite ((s.rangeOk_iff 1).1 ok 0 (by decide)) _).advance running
  | overflow nnn full => exact h.raise running (by decide) _
  | underflow ign empty => exact h.raise running (by decide) _
  | outside bad => exact h.raise running (by decide) _

theorem State.Inv.keyArrives {s : State} (h : s.Inv) (x : Nibble) (k : Byte) : (s.keyArrives x k).Inv :=
  (((h.setKey k).writeV x k).setPhase (by decide)).advance rfl

/-- The core's step keeps the invariant, in every phase (R140, R281, R313). -/
theorem coreStep_keeps_inv {s t : State} (h : s.Inv) (answered : coreStep s = .next t) : t.Inv := by
  cases phase : s.phase with
  | run =>
    rcases coreStep_run phase with ⟨_, e⟩ | ⟨w, _, ⟨_, _, e⟩ | ⟨i, _, e⟩⟩ <;> rw [e] at answered
    · cases answered; exact h.raise phase (by decide) s.pc
    · cases answered; exact h.raise phase (by decide) w
    · exact (effect_of_exec answered).keeps_inv phase h
  | waitKey x =>
    rw [coreStep_waitKey phase] at answered
    cases answered
    rcases s.keyWaitStep_cases x with ⟨e, _⟩ | ⟨k, _, _, e⟩ <;> rw [e]
    · exact h
    · exact h.keyArrives x k
  | halted => simp [coreStep, phase] at answered

/-- The agents between two steps write nothing the invariant mentions (R330). -/
theorem State.Inv.between {s : State} (h : s.Inv) (answers : Config.Inputs) : (s.between answers).Inv := by
  by_cases halted : s.phase = .halted
  · rwa [State.between_halted halted]
  · rw [State.between_running halted]
    exact { h with }

/-- Settles O55: the core's step keeps the invariant, by the effect of the instruction it runs, and so do the agents
after it. -/
theorem stepKeepsInvariant : Obligations.StepKeepsInvariant := by
  intro s t h answered
  obtain ⟨u, core, rfl⟩ := step_next answered
  exact (coreStep_keeps_inv h core).between s.currentInputs

end Sys2Proof.Machine
end

section
/-! The canonical form of memory (20_memory.md R70, R79; log 6): the entries of the list are determined by what the
addresses read as. -/
namespace Sys2Proof.Machine

variable {cfg : Config.Params}

theorem Memory.wf_tail {c : Host.Cell} {m : Memory} (h : Memory.wf (c :: m) cfg) : Memory.wf m cfg :=
  ⟨h.1.tail, fun d listed => h.2 d (List.mem_cons_of_mem c listed)⟩

/-- In canonical form the entries are the addresses that read as something else than the loader's byte, each with what
it reads as. -/
theorem Memory.mem_iff_read {m : Memory} (h : m.wf cfg) (c : Host.Cell) :
    c ∈ m ↔ m.read cfg c.1 = c.2 ∧ c.2 ≠ initialByte cfg c.1 := by
  induction m with
  | nil => exact ⟨fun listed => absurd listed List.not_mem_nil, fun ⟨reads, differs⟩ => absurd reads.symm differs⟩
  | cons d rest ih =>
    obtain ⟨rising, differs⟩ := h
    obtain ⟨above, _⟩ := List.pairwise_cons.1 rising
    by_cases same : d.1 = c.1
    · have notLater : c ∉ rest := fun later => absurd same (Nat.ne_of_lt (above c later))
      have differs := differs d List.mem_cons_self
      rw [Memory.read, if_pos same, List.mem_cons, or_iff_left notLater]
      constructor
      · rintro rfl; exact ⟨rfl, differs⟩
      · exact fun reads => Prod.ext same.symm reads.1.symm
    · have other : c ≠ d := fun e => same (congrArg Prod.fst e.symm)
      rw [Memory.read, if_neg same, List.mem_cons, or_iff_right other]
      exact ih (Memory.wf_tail ⟨rising, differs⟩)

/-- Memories in canonical form that read the same are the same list: they have the same entries, in rising order. -/
theorem Memory.ext_read {m m' : Memory} (h : m.wf cfg) (h' : m'.wf cfg)
    (same : ∀ a, m.read cfg a = m'.read cfg a) : m = m' := by
  have entries (c : Host.Cell) : c ∈ m ↔ c ∈ m' := by
    rw [Memory.mem_iff_read h, Memory.mem_iff_read h', same]
  exact List.Pairwise.eq_of_mem_iff (r := InvImage (· < ·) Prod.fst) h.1 h'.1 entries

/-- Settles O33: the entries are read off the addresses, and the law that a write keeps the form. -/
theorem canonicalMemory : Obligations.CanonicalMemory :=
  fun _ _ _ h h' => ⟨Memory.ext_read h h', Memory.write_wf h⟩

end Sys2Proof.Machine
end

section
/-! What a store leaves for the reads after it (20_memory.md R72, R79, R84; 42_memory_bcd_font.md R236, R238, R240). -/
namespace Sys2Proof.Machine

theorem State.rangeOk_one {s : State} (inside : s.i.toNat < s.cfg.memSize) : s.rangeOk 1 = true :=
  (s.rangeOk_last 1).2 (.inr inside)

/-- `LD_MEM_VX` inside memory (R238). -/
theorem exec_ldMemVx {s : State} (inside : s.i.toNat < s.cfg.memSize) (x : Nibble) :
    exec (.ldMemVx x) s = .next (s.memWrite s.i.toNat (s.readV x)).advance :=
  State.guardRange_ok (State.rangeOk_one inside) _

/-- `LD_VX_MEM` inside memory (R240). -/
theorem exec_ldVxMem {s : State} (inside : s.i.toNat < s.cfg.memSize) (x : Nibble) :
    exec (.ldVxMem x) s = .next (s.result x (s.memRead s.i.toNat)) :=
  State.guardRange_ok (State.rangeOk_one inside) _

/-- `LD_B_VX` inside memory (R236). -/
theorem exec_ldBVx {s : State} (inside : s.i.toNat + 2 < s.cfg.memSize) (x : Nibble) :
    exec (.ldBVx x) s = .next (((s.memWrite s.i.toNat (ones (s.readV x))).memWrite (s.i.toNat + 1)
      (tens (s.readV x))).memWrite (s.i.toNat + 2) (hundreds (s.readV x))).advance :=
  State.guardRange_ok ((s.rangeOk_last 3).2 (.inr inside)) _

/-- Settles O32: the fill reads the byte the spill wrote (R79), and the two write nothing else. -/
theorem fillAfterSpill : Obligations.FillAfterSpill := by
  intro x y s inside
  refine ⟨_, _, exec_ldMemVx inside x,
    exec_ldVxMem (s := (s.memWrite s.i.toNat (s.readV x)).advance) inside y, ?_, ?_, ?_⟩
  · rw [State.readV_result_same]
    exact s.memRead_memWrite_same _ _
  · exact BitVec.add_assoc s.pc 2 2
  · exact { Keeps.refl _ s with
      regs := fun r other => State.readV_result_ne _ _ (by simpa using other)
      bytes := fun a other => s.memRead_memWrite_ne _ (by simpa using other) }

/-- The value of a word is that of its bytes, the high byte first (R72). -/
theorem toNat_wordOfBytes (hi lo : Byte) : (wordOfBytes hi lo).toNat = hi.toNat * 256 + lo.toNat := by
  rw [wordOfBytes, BitVec.toNat_append, ← Nat.shiftLeft_add_eq_or_of_lt lo.isLt, Nat.shiftLeft_eq]

theorem State.fetchWord_inside {s : State} (inside : s.pc.toNat + 1 < s.cfg.memSize) :
    s.fetchWord = some (wordOfBytes (s.memRead s.pc.toNat) (s.memRead (s.pc.toNat + 1))) :=
  if_pos inside

theorem State.fetchWord_outside {s : State} (outside : s.cfg.memSize ≤ s.pc.toNat + 1) : s.fetchWord = none :=
  if_neg (Nat.not_lt.2 outside)

/-- Where no whole word is in memory at `PC`, a running core takes FETCH_RANGE (R311). -/
theorem coreStep_fetchRange {s : State} (running : s.phase = .run) (outside : s.cfg.memSize ≤ s.pc.toNat + 1) :
    coreStep s = .next (s.raise .fetchRange s.pc) := by
  rcases coreStep_run running with ⟨_, e⟩ | ⟨w, fetched, _⟩
  · exact e
  · rw [State.fetchWord_outside outside] at fetched; cases fetched

/-- Settles O47: the fetched word is its two bytes in memory, and outside memory the step takes the fault. -/
theorem fetchIsBigEndian : Obligations.FetchIsBigEndian := by
  intro s
  refine ⟨fun inside => ⟨_, State.fetchWord_inside inside, toNat_wordOfBytes _ _⟩, fun outside => ?_⟩
  exact ⟨State.fetchWord_outside outside, fun running =>
    ⟨_, coreStep_fetchRange running outside, s.raise_faulted .fetchRange s.pc⟩⟩

/-- Where `I` holds the address of the next word, the fetch after ADVANCE reads the bytes from `I`. -/
theorem State.fetchWord_advance {s : State} (atNext : s.i = s.pc + 2) (inside : s.i.toNat + 1 < s.cfg.memSize) :
    s.advance.fetchWord = some (wordOfBytes (s.memRead s.i.toNat) (s.memRead (s.i.toNat + 1))) := by
  rw [atNext] at inside ⊢
  exact State.fetchWord_inside (s := s.advance) inside

theorem toNat_ones (b : Byte) : (ones b).toNat = b.toNat % 10 := by
  rw [ones, BitVec.toNat_ofNat]
  omega

theorem toNat_tens (b : Byte) : (tens b).toNat = b.toNat / 10 % 10 := by
  rw [tens, BitVec.toNat_ofNat]
  omega

/-- Three bytes written in a row read back, each at its own address (R79, R236). -/
theorem State.memRead_threeWrites (s : State) (a : Nat) (b₀ b₁ b₂ : Byte) :
    (((s.memWrite a b₀).memWrite (a + 1) b₁).memWrite (a + 2) b₂).memRead a = b₀ ∧
      (((s.memWrite a b₀).memWrite (a + 1) b₁).memWrite (a + 2) b₂).memRead (a + 1) = b₁ ∧
        (((s.memWrite a b₀).memWrite (a + 1) b₁).memWrite (a + 2) b₂).memRead (a + 2) = b₂ := by
  refine ⟨?_, ?_, State.memRead_memWrite_same ..⟩
  · rw [State.memRead_memWrite_ne _ _ (by omega), State.memRead_memWrite_ne _ _ (by omega),
      State.memRead_memWrite_same]
  · rw [State.memRead_memWrite_ne _ _ (by omega), State.memRead_memWrite_same]

/-- Settles O48: `PC` after the store is the old `I`, where the stored bytes are. -/
theorem nextFetchSeesStore : Obligations.NextFetchSeesStore := by
  intro s x atNext room
  have inside : s.i.toNat + 1 < s.cfg.memSize := by omega
  refine ⟨⟨_, _, exec_ldMemVx (by omega) x, State.fetchWord_advance atNext inside, ?_⟩,
    ⟨_, _, exec_ldBVx room x, State.fetchWord_advance atNext inside, ?_, ?_⟩⟩
  · rw [highByte_wordOfBytes]
    exact State.memRead_memWrite_same ..
  · rw [highByte_wordOfBytes, ← toNat_ones]
    exact congrArg BitVec.toNat (s.memRead_threeWrites ..).1
  · rw [lowByte_wordOfBytes, ← toNat_tens]
    exact congrArg BitVec.toNat (s.memRead_threeWrites ..).2.1

end Sys2Proof.Machine
end

section
/-! The round trip between instructions and words (30_encoding.md R100, R109 to R111, R114; 20_memory.md R72): what an
instruction's word decodes to, and which words decode. -/
namespace Sys2Proof

/-- Where an instruction has an ignored nibble, it is well formed exactly if `STRICT_DECODE` lets that nibble pass
(R109, R114). -/
theorem wf_iff_of_ignored {strict : Bool} {i : Instr} {ign : Nibble} (hi : i.ignored = some ign) :
    i.wf strict = true ↔ (strict = true → ign = 0) := by
  cases strict <;> simp [Instr.wf, hi]

/-- An instruction with no ignored nibble is well formed (R109). -/
theorem wf_of_not_ignored {strict : Bool} {i : Instr} (hi : i.ignored = none) : i.wf strict = true := by
  simp [Instr.wf, hi]

/-- Decoding the word of a well-formed instruction, group by group of the dispatch (R104 to R108). -/
theorem decodeWord_encode {strict : Bool} {i : Instr} (h : i.wf strict = true) :
    decodeWord strict (encode i) = .ok i := by
  cases i with
  | jp | call | ldI | jpo | seImm | sneImm | ldImm | addImm | rnd | drw => simp [encode, decodeWord]
  | cls | ret =>
    have passes := (wf_iff_of_ignored rfl).1 h
    simpa [encode, decodeWord_op0, decodeGroup0] using passes
  | seReg | sneReg =>
    have passes := (wf_iff_of_ignored rfl).1 h
    simpa [encode, decodeWord, decodeSkipReg] using passes
  | ldReg | or | and | xor | addReg | sub | shr | subn | shl => simp [encode, decodeWord_op8, decodeGroup8]
  | skp | sknp => simp [encode, decodeWord_opE, decodeGroupE]
  | ldVxDt | ldVxK | ldDtVx | ldStVx | addIVx | ldFVx | ldBVx | ldMemVx | ldVxMem =>
    simp [encode, decodeWord_opF, decodeGroupF]

/-- In memory the word of an instruction is its two bytes, the high byte first (R72). -/
theorem decode_encodeBytes {strict : Bool} {i : Instr} (h : i.wf strict = true) (rest : List Byte) :
    decode strict (encodeBytes i ++ rest) = .ok (i, rest) := by
  simp [encodeBytes, decode, Machine.wordOfBytes_bytes, decodeWord_encode h]

/-- Settles O1: the round trip of the word, and the bytes put together to the word again. -/
theorem decodeOfEncode : Obligations.DecodeOfEncode :=
  fun _ _ h => ⟨decodeWord_encode h, decode_encodeBytes h⟩

/-- The opcode table's word of an instruction is read back as that instruction. -/
theorem decodeTableWord_encode (i : Instr) : decodeTableWord 16 (encode i).toNat = some i := by
  have bytes : tableBytes 16 (encode i).toNat = encodeBytes i ++ [] := by
    rw [tableBytes, Nat.mod_eq_of_lt (encode i).isLt, BitVec.ofNat_toNat, BitVec.setWidth_eq]
    rfl
  rw [decodeTableWord, bytes, decode_encodeBytes rfl]

/-- Settles O5: each word written out is the word of the instruction it stands for. -/
theorem sampleWords : Obligations.SampleWords :=
  ⟨decodeTableWord_encode (.cls 0), decodeTableWord_encode (.jp 0x234), decodeTableWord_encode (.ldImm 0xA 0x07),
    decodeTableWord_encode (.seImm 0xA 0x07), decodeTableWord_encode (.subn 4 1), decodeTableWord_encode (.drw 1 2 5),
    decodeTableWord_encode (.ldMemVx 3), decodeTableWord_encode (.sknp 2)⟩

variable {strict : Bool} {w : Word} {i : Instr}

/-! A word with the fixed fields of a format is that format's pack of its own operands (R101, R103). -/

theorem packA_of_fields {op : Nibble} (hop : opOf w = op) : packA op (nnnOf w) = w := by
  rw [← hop, packA_fields]

theorem packXK_of_fields {op : Nibble} {kk : Byte} (hop : opOf w = op) (hkk : kkOf w = kk) :
    packXK op (xOf w) kk = w := by
  rw [← hop, ← hkk, packXK_fields]

theorem packXYN_of_fields {op n : Nibble} (hop : opOf w = op) (hn : nOf w = n) :
    packXYN op (xOf w) (yOf w) n = w := by
  rw [← hop, ← hn, packXYN_fields]

theorem encode_of_decodeGroup0 (op : opOf w = 0x0) (h : decodeGroup0 strict w = .ok i) :
    encode i = w ∧ i.wf strict = true := by
  unfold decodeGroup0 at h
  split_ifs at h with refused isCls isRet
  · cases h
    exact ⟨packXK_of_fields op isCls, (wf_iff_of_ignored rfl).2 (by simpa using refused)⟩
  · cases h
    exact ⟨packXK_of_fields op isRet, (wf_iff_of_ignored rfl).2 (by simpa using refused)⟩

theorem encode_of_decodeSkipReg {j : Instr} (word : encode j = w) (ign : j.ignored = some (nOf w))
    (h : decodeSkipReg strict w j = .ok i) : encode i = w ∧ i.wf strict = true := by
  unfold decodeSkipReg at h
  split_ifs at h with refused
  cases h
  exact ⟨word, (wf_iff_of_ignored ign).2 (by simpa using refused)⟩

theorem encode_of_decodeGroup8 (op : opOf w = 0x8) (h : decodeGroup8 w = .ok i) :
    encode i = w ∧ i.wf strict = true := by
  unfold decodeGroup8 at h
  split_ifs at h <;> cases h
  all_goals exact ⟨packXYN_of_fields op ‹_›, wf_of_not_ignored rfl⟩

theorem encode_of_decodeGroupE (op : opOf w = 0xE) (h : decodeGroupE w = .ok i) :
    encode i = w ∧ i.wf strict = true := by
  unfold decodeGroupE at h
  split_ifs at h <;> cases h
  all_goals exact ⟨packXK_of_fields op ‹_›, wf_of_not_ignored rfl⟩

theorem encode_of_decodeGroupF (op : opOf w = 0xF) (h : decodeGroupF w = .ok i) :
    encode i = w ∧ i.wf strict = true := by
  unfold decodeGroupF at h
  split_ifs at h <;> cases h
  all_goals exact ⟨packXK_of_fields op ‹_›, wf_of_not_ignored rfl⟩

/-- The inversion of the decoder: a word decodes only to a well-formed instruction whose word it is. The sixteen values
of `op` are the sixteen arms of the dispatch (R104). -/
theorem encode_of_decodeWord (h : decodeWord strict w = .ok i) : encode i = w ∧ i.wf strict = true := by
  rcases nibble_cases (opOf w) with op | op | op | op | op | op | op | op | op | op | op | op | op | op | op | op
  · exact encode_of_decodeGroup0 op (decodeWord_op0 strict op ▸ h)
  · cases (decodeWord_op1 strict op).symm.trans h; exact ⟨packA_of_fields op, wf_of_not_ignored rfl⟩
  · cases (decodeWord_op2 strict op).symm.trans h; exact ⟨packA_of_fields op, wf_of_not_ignored rfl⟩
  · cases (decodeWord_op3 strict op).symm.trans h; exact ⟨packXK_of_fields op rfl, wf_of_not_ignored rfl⟩
  · cases (decodeWord_op4 strict op).symm.trans h; exact ⟨packXK_of_fields op rfl, wf_of_not_ignored rfl⟩
  · exact encode_of_decodeSkipReg (j := .seReg ..) (packXYN_of_fields op rfl) rfl (decodeWord_op5 strict op ▸ h)
  · cases (decodeWord_op6 strict op).symm.trans h; exact ⟨packXK_of_fields op rfl, wf_of_not_ignored rfl⟩
  · cases (decodeWord_op7 strict op).symm.trans h; exact ⟨packXK_of_fields op rfl, wf_of_not_ignored rfl⟩
  · exact encode_of_decodeGroup8 op (decodeWord_op8 strict op ▸ h)
  · exact encode_of_decodeSkipReg (j := .sneReg ..) (packXYN_of_fields op rfl) rfl (decodeWord_op9 strict op ▸ h)
  · cases (decodeWord_opA strict op).symm.trans h; exact ⟨packA_of_fields op, wf_of_not_ignored rfl⟩
  · cases (decodeWord_opB strict op).symm.trans h; exact ⟨packA_of_fields op, wf_of_not_ignored rfl⟩
  · cases (decodeWord_opC strict op).symm.trans h; exact ⟨packXK_of_fields op rfl, wf_of_not_ignored rfl⟩
  · cases (decodeWord_opD strict op).symm.trans h; exact ⟨packXYN_of_fields op rfl, wf_of_not_ignored rfl⟩
  · exact encode_of_decodeGroupE op (decodeWord_opE strict op ▸ h)
  · exact encode_of_decodeGroupF op (decodeWord_opF strict op ▸ h)

/-- Settles O2, by the inversion of the decoder. -/
theorem encodeOfDecode : Obligations.EncodeOfDecode :=
  fun _ _ _ => encode_of_decodeWord

/-- Encoder and decoder are inverse to each other on well-formed instructions and the words that decode. -/
theorem decodeWord_eq_ok_iff : decodeWord strict w = .ok i ↔ encode i = w ∧ i.wf strict = true := by
  constructor
  · exact encode_of_decodeWord
  · rintro ⟨rfl, h⟩
    exact decodeWord_encode h

end Sys2Proof
end

section
/-! The rows of R110 put together: one lemma of `Laws.TableRow` per instruction, in the order of the constructors. -/
namespace Sys2Proof.Laws.TableRow

theorem allRows (i : Instr) : Statement i :=
  i.casesOn cls ret jp call seImm sneImm seReg ldImm addImm ldReg or and xor addReg sub shr subn shl sneReg ldI jpo rnd
    drw skp sknp ldVxDt ldVxK ldDtVx ldStVx addIVx ldFVx ldBVx ldMemVx ldVxMem

end Sys2Proof.Laws.TableRow
end

section
/-! The opcode map (30_encoding.md R110): which words match a row, and which match none (R112, R114). -/
namespace Sys2Proof

variable {strict : Bool} {w : Word} {i : Instr}

/-- The word of a well-formed instruction matches the instruction's row: `Laws.TableRow` says so row by row (R110). -/
theorem matchesRow_encode (h : i.wf strict = true) : matchesRow strict (encode i) i = true :=
  Laws.TableRow.allRows i strict h

/-- Where a mask has all bits of a field set, a word that matches has the pattern's field. -/
theorem field_of_masked {mask pattern : Word} {start len : Nat} (masked : w &&& mask = pattern)
    (whole : mask.extractLsb' start len = BitVec.allOnes len) :
    w.extractLsb' start len = pattern.extractLsb' start len := by
  rw [← masked, BitVec.extractLsb'_and, whole, BitVec.and_allOnes]

/-- Every row fixes `op` (R104). -/
theorem opOf_mask (strict : Bool) (i : Instr) : opOf (i.mask strict) = 0xF := by
  cases i <;> cases strict <;> simp [Instr.mask, opOf]

/-- A word that matches the row of an instruction is the word of a well-formed instruction of the same row: the one
whose operands are the word's own fields. -/
theorem exists_encode_of_matchesRow (h : matchesRow strict w i = true) :
    ∃ j, encode j = w ∧ j.wf strict = true ∧ j.pattern = i.pattern := by
  have masked : w &&& i.mask strict = i.pattern := eq_of_beq h
  have op : opOf w = opOf i.pattern := field_of_masked masked (opOf_mask strict i)
  have kk (whole : kkOf (i.mask strict) = 0xFF) : kkOf w = kkOf i.pattern := field_of_masked masked whole
  have n (whole : nOf (i.mask strict) = 0xF) : nOf w = nOf i.pattern := field_of_masked masked whole
  have x (whole : xOf (i.mask strict) = 0xF) : xOf w = xOf i.pattern := field_of_masked masked whole
  cases i <;> simp only [Instr.pattern, Instr.mask] at op kk n x
  case cls =>
    refine ⟨.cls (xOf w), packXK_of_fields op (kk ?_), (wf_iff_of_ignored rfl).2 ?_, rfl⟩
    · cases strict <;> rfl
    · rintro rfl; exact x rfl
  case ret =>
    refine ⟨.ret (xOf w), packXK_of_fields op (kk ?_), (wf_iff_of_ignored rfl).2 ?_, rfl⟩
    · cases strict <;> rfl
    · rintro rfl; exact x rfl
  case seReg =>
    refine ⟨.seReg (xOf w) (yOf w) (nOf w), packXYN_of_fields op rfl, (wf_iff_of_ignored rfl).2 ?_, rfl⟩
    rintro rfl; exact n rfl
  case sneReg =>
    refine ⟨.sneReg (xOf w) (yOf w) (nOf w), packXYN_of_fields op rfl, (wf_iff_of_ignored rfl).2 ?_, rfl⟩
    rintro rfl; exact n rfl
  case jp => exact ⟨.jp (nnnOf w), packA_of_fields op, wf_of_not_ignored rfl, rfl⟩
  case call => exact ⟨.call (nnnOf w), packA_of_fields op, wf_of_not_ignored rfl, rfl⟩
  case ldI => exact ⟨.ldI (nnnOf w), packA_of_fields op, wf_of_not_ignored rfl, rfl⟩
  case jpo => exact ⟨.jpo (nnnOf w), packA_of_fields op, wf_of_not_ignored rfl, rfl⟩
  case seImm => exact ⟨.seImm (xOf w) (kkOf w), packXK_of_fields op rfl, wf_of_not_ignored rfl, rfl⟩
  case sneImm => exact ⟨.sneImm (xOf w) (kkOf w), packXK_of_fields op rfl, wf_of_not_ignored rfl, rfl⟩
  case ldImm => exact ⟨.ldImm (xOf w) (kkOf w), packXK_of_fields op rfl, wf_of_not_ignored rfl, rfl⟩
  case addImm => exact ⟨.addImm (xOf w) (kkOf w), packXK_of_fields op rfl, wf_of_not_ignored rfl, rfl⟩
  case rnd => exact ⟨.rnd (xOf w) (kkOf w), packXK_of_fields op rfl, wf_of_not_ignored rfl, rfl⟩
  case drw => exact ⟨.drw (xOf w) (yOf w) (nOf w), packXYN_of_fields op rfl, wf_of_not_ignored rfl, rfl⟩
  case ldReg => exact ⟨.ldReg (xOf w) (yOf w), packXYN_of_fields op (n rfl), wf_of_not_ignored rfl, rfl⟩
  case or => exact ⟨.or (xOf w) (yOf w), packXYN_of_fields op (n rfl), wf_of_not_ignored rfl, rfl⟩
  case and => exact ⟨.and (xOf w) (yOf w), packXYN_of_fields op (n rfl), wf_of_not_ignored rfl, rfl⟩
  case xor => exact ⟨.xor (xOf w) (yOf w), packXYN_of_fields op (n rfl), wf_of_not_ignored rfl, rfl⟩
  case addReg => exact ⟨.addReg (xOf w) (yOf w), packXYN_of_fields op (n rfl), wf_of_not_ignored rfl, rfl⟩
  case sub => exact ⟨.sub (xOf w) (yOf w), packXYN_of_fields op (n rfl), wf_of_not_ignored rfl, rfl⟩
  case shr => exact ⟨.shr (xOf w) (yOf w), packXYN_of_fields op (n rfl), wf_of_not_ignored rfl, rfl⟩
  case subn => exact ⟨.subn (xOf w) (yOf w), packXYN_of_fields op (n rfl), wf_of_not_ignored rfl, rfl⟩
  case shl => exact ⟨.shl (xOf w) (yOf w), packXYN_of_fields op (n rfl), wf_of_not_ignored rfl, rfl⟩
  case skp => exact ⟨.skp (xOf w), packXK_of_fields op (kk rfl), wf_of_not_ignored rfl, rfl⟩
  case sknp => exact ⟨.sknp (xOf w), packXK_of_fields op (kk rfl), wf_of_not_ignored rfl, rfl⟩
  case ldVxDt => exact ⟨.ldVxDt (xOf w), packXK_of_fields op (kk rfl), wf_of_not_ignored rfl, rfl⟩
  case ldVxK => exact ⟨.ldVxK (xOf w), packXK_of_fields op (kk rfl), wf_of_not_ignored rfl, rfl⟩
  case ldDtVx => exact ⟨.ldDtVx (xOf w), packXK_of_fields op (kk rfl), wf_of_not_ignored rfl, rfl⟩
  case ldStVx => exact ⟨.ldStVx (xOf w), packXK_of_fields op (kk rfl), wf_of_not_ignored rfl, rfl⟩
  case addIVx => exact ⟨.addIVx (xOf w), packXK_of_fields op (kk rfl), wf_of_not_ignored rfl, rfl⟩
  case ldFVx => exact ⟨.ldFVx (xOf w), packXK_of_fields op (kk rfl), wf_of_not_ignored rfl, rfl⟩
  case ldBVx => exact ⟨.ldBVx (xOf w), packXK_of_fields op (kk rfl), wf_of_not_ignored rfl, rfl⟩
  case ldMemVx => exact ⟨.ldMemVx (xOf w), packXK_of_fields op (kk rfl), wf_of_not_ignored rfl, rfl⟩
  case ldVxMem => exact ⟨.ldVxMem (xOf w), packXK_of_fields op (kk rfl), wf_of_not_ignored rfl, rfl⟩

/-- What a word decodes to is an instruction whose row it matches. -/
theorem matchesRow_of_decodeWord (h : decodeWord strict w = .ok i) : matchesRow strict w i = true := by
  obtain ⟨rfl, wf⟩ := encode_of_decodeWord h
  exact matchesRow_encode wf

/-- A word that matches a row decodes, to an instruction of that row. -/
theorem decodeWord_of_matchesRow (h : matchesRow strict w i = true) :
    ∃ j, decodeWord strict w = .ok j ∧ j.pattern = i.pattern := by
  obtain ⟨j, word, wf, row⟩ := exists_encode_of_matchesRow h
  exact ⟨j, decodeWord_eq_ok_iff.2 ⟨word, wf⟩, row⟩

/-- No word matches two rows: each is the row of the one instruction the word decodes to. -/
theorem matchesRow_unique {j : Instr} (hi : matchesRow strict w i = true) (hj : matchesRow strict w j = true) :
    i.pattern = j.pattern := by
  obtain ⟨k, decoded, rowI⟩ := decodeWord_of_matchesRow hi
  obtain ⟨k', decoded', rowJ⟩ := decodeWord_of_matchesRow hj
  cases decoded.symm.trans decoded'
  exact rowI.symm.trans rowJ

/-- Settles O3: the decoded instruction's row, the row's instruction, and uniqueness through the decoder. -/
theorem opcodeMap : Obligations.OpcodeMap :=
  fun _ _ => ⟨fun _ => matchesRow_of_decodeWord, fun _ => decodeWord_of_matchesRow, fun _ _ => matchesRow_unique⟩

/-! The words a group of the dispatch refuses (R105 to R109, R112, R114). -/

theorem decodeGroup0_refuses_iff : (∃ e, decodeGroup0 strict w = .error e) ↔
    kkOf w ∉ [0xE0, 0xEE] ∨ strict = true ∧ xOf w ≠ 0 := by
  unfold decodeGroup0
  split_ifs <;> simp_all

theorem decodeSkipReg_refuses_iff : (∃ e, decodeSkipReg strict w i = .error e) ↔ strict = true ∧ nOf w ≠ 0 := by
  unfold decodeSkipReg
  split_ifs <;> simp_all

theorem decodeGroup8_refuses_iff : (∃ e, decodeGroup8 w = .error e) ↔
    nOf w ∈ [0x8, 0x9, 0xA, 0xB, 0xC, 0xD, 0xF] := by
  rcases nibble_cases (nOf w) with n | n | n | n | n | n | n | n | n | n | n | n | n | n | n | n <;>
    simp [decodeGroup8, n]

theorem decodeGroupE_refuses_iff : (∃ e, decodeGroupE w = .error e) ↔ kkOf w ∉ [0x9E, 0xA1] := by
  unfold decodeGroupE
  split_ifs <;> simp_all

theorem decodeGroupF_refuses_iff : (∃ e, decodeGroupF w = .error e) ↔
    kkOf w ∉ [0x07, 0x0A, 0x15, 0x18, 0x1E, 0x29, 0x33, 0x55, 0x65] := by
  unfold decodeGroupF
  split_ifs <;> simp_all

/-- The unimplemented words, under either `STRICT_DECODE` (R112, R114): those a group of the dispatch refuses. -/
theorem decodeWord_refuses_iff : (∃ e, decodeWord strict w = .error e) ↔
    (opOf w = 0x0 ∧ (kkOf w ∉ [0xE0, 0xEE] ∨ strict = true ∧ xOf w ≠ 0)) ∨
      ((opOf w = 0x5 ∨ opOf w = 0x9) ∧ strict = true ∧ nOf w ≠ 0) ∨
        (opOf w = 0x8 ∧ nOf w ∈ [0x8, 0x9, 0xA, 0xB, 0xC, 0xD, 0xF]) ∨
          (opOf w = 0xE ∧ kkOf w ∉ [0x9E, 0xA1]) ∨
            (opOf w = 0xF ∧ kkOf w ∉ [0x07, 0x0A, 0x15, 0x18, 0x1E, 0x29, 0x33, 0x55, 0x65]) := by
  rw [← decodeGroup0_refuses_iff, ← decodeGroup8_refuses_iff, ← decodeGroupE_refuses_iff,
    ← decodeGroupF_refuses_iff]
  rcases nibble_cases (opOf w) with op | op | op | op | op | op | op | op | op | op | op | op | op | op | op | op
  · simp [decodeWord_op0 strict op, op]
  · simp [decodeWord_op1 strict op, op]
  · simp [decodeWord_op2 strict op, op]
  · simp [decodeWord_op3 strict op, op]
  · simp [decodeWord_op4 strict op, op]
  · simp [decodeWord_op5 strict op, op, decodeSkipReg_refuses_iff]
  · simp [decodeWord_op6 strict op, op]
  · simp [decodeWord_op7 strict op, op]
  · simp [decodeWord_op8 strict op, op]
  · simp [decodeWord_op9 strict op, op, decodeSkipReg_refuses_iff]
  · simp [decodeWord_opA strict op, op]
  · simp [decodeWord_opB strict op, op]
  · simp [decodeWord_opC strict op, op]
  · simp [decodeWord_opD strict op, op]
  · simp [decodeWord_opE strict op, op]
  · simp [decodeWord_opF strict op, op]

/-- Settles O4: the words refused, read once for each value of `STRICT_DECODE`. -/
theorem unimplementedWords : Obligations.UnimplementedWords := by
  intro w
  rw [decodeWord_refuses_iff, decodeWord_refuses_iff]
  constructor
  · simp only [Bool.false_eq_true, false_and, and_false, or_false, false_or]
  · simp only [Bool.false_eq_true, false_and, and_false, or_false, false_or, true_and]
    tauto

end Sys2Proof
end

section
/-! The assembler's forms (30_encoding.md R110, R115, R116): the spelling of an instruction builds it, and each form of
operands builds only instructions that it spells. -/
namespace Sys2Proof.Machine

/-- A number in a field's range is the field (R115). -/
@[simp] theorem fieldOf_toNat {width : Nat} (b : BitVec width) : fieldOf width b.toNat = some b := by
  simp [fieldOf, b.isLt]

/-- A field is built only from its own number (R115). -/
theorem toNat_of_fieldOf {width v : Nat} {b : BitVec width} (h : fieldOf width v = some b) : v = b.toNat := by
  unfold fieldOf at h
  split_ifs at h with inRange
  cases h
  rw [BitVec.toNat_ofNat, Nat.mod_eq_of_lt inRange]

/-- The spelling of an instruction whose ignored nibble is 0 builds it. -/
theorem build_spelling {i : Instr} (h : i.wf true = true) : build (spelling i).1 (spelling i).2 = some i := by
  cases i with
  | cls | ret | seReg | sneReg => obtain rfl := Laws.TableRow.ignored_zero rfl h; rfl
  | jp | call | jpo => simp [spelling, build, addressForm]
  | seImm | sneImm => simp [spelling, build, compareForm]
  | ldImm | ldI => simp [spelling, build, loadForm, loadRegister]
  | addImm => simp [spelling, build, addForm]
  | rnd => simp [spelling, build, randomForm]
  | drw => simp [spelling, build, drawForm]
  | ldReg | ldVxDt | ldVxK | ldVxMem | ldDtVx | ldStVx | ldFVx | ldBVx | ldMemVx => rfl
  | or | and | xor | sub | subn | shr | shl | addReg | addIVx | skp | sknp => rfl

/-- The line `op operands` is the spelling of `i` in R110's column, and `i` has no other word: its ignored nibble, if it
has one, is 0. -/
def Spells (op : Op) (operands : List Operand) (i : Instr) : Prop :=
  i.wf true = true ∧ spelling i = (op, operands)

variable {op : Op} {operands : List Operand} {i : Instr}

/-! Each form builds only what it spells, where the row it is used for has the form's operands. -/

theorem spells_of_noOperand {j : Instr} (row : Spells op [] j) (h : noOperand j operands = some i) :
    Spells op operands i := by
  unfold noOperand at h
  split at h
  · cases h; exact row
  · cases h

theorem spells_of_addressForm {f : Addr12 → Instr} (row : ∀ a, Spells op [.num a.toNat] (f a))
    (h : addressForm f operands = some i) : Spells op operands i := by
  unfold addressForm at h
  split at h
  · obtain ⟨a, field, rfl⟩ := Option.map_eq_some_iff.1 h
    rw [toNat_of_fieldOf field]
    exact row a
  · cases h

theorem spells_of_registerForm {f : Nibble → Instr} (row : ∀ x, Spells op [.reg x] (f x))
    (h : registerForm f operands = some i) : Spells op operands i := by
  unfold registerForm at h
  split at h
  · cases h; exact row _
  · cases h

theorem spells_of_registersForm {f : Nibble → Nibble → Instr} (row : ∀ x y, Spells op [.reg x, .reg y] (f x y))
    (h : registersForm f operands = some i) : Spells op operands i := by
  unfold registersForm at h
  split at h
  · cases h; exact row _ _
  · cases h

/-- A shift's line spells the instruction built, or names one register and builds `y = 0` (R115). -/
theorem spells_of_shiftForm {f : Nibble → Nibble → Instr} (row : ∀ x y, Spells op [.reg x, .reg y] (f x y))
    (h : shiftForm f operands = some i) : Spells op operands i ∨ ∃ x, operands = [.reg x] ∧ i = f x 0 := by
  unfold shiftForm at h
  split at h
  · cases h; exact .inl (row _ _)
  · cases h; exact .inr ⟨_, rfl, rfl⟩
  · cases h

theorem spells_of_compareForm {f : Nibble → Byte → Instr} {g : Nibble → Nibble → Instr}
    (immediate : ∀ x kk, Spells op [.reg x, .num kk.toNat] (f x kk))
    (registers : ∀ x y, Spells op [.reg x, .reg y] (g x y))
    (h : compareForm f g operands = some i) : Spells op operands i := by
  unfold compareForm at h
  split at h
  · obtain ⟨kk, field, rfl⟩ := Option.map_eq_some_iff.1 h
    rw [toNat_of_fieldOf field]
    exact immediate _ kk
  · cases h; exact registers _ _
  · cases h

theorem spells_of_addForm (h : addForm operands = some i) : Spells .add operands i := by
  unfold addForm at h
  split at h
  · obtain ⟨kk, field, rfl⟩ := Option.map_eq_some_iff.1 h
    rw [toNat_of_fieldOf field]
    exact ⟨rfl, rfl⟩
  · cases h; exact ⟨rfl, rfl⟩
  · cases h; exact ⟨rfl, rfl⟩
  · cases h

theorem spells_of_loadRegister {x : Nibble} {o : Operand} (h : loadRegister x o = some i) :
    Spells .ld [.reg x, o] i := by
  unfold loadRegister at h
  split at h
  · obtain ⟨kk, field, rfl⟩ := Option.map_eq_some_iff.1 h
    rw [toNat_of_fieldOf field]
    exact ⟨rfl, rfl⟩
  all_goals cases h
  all_goals exact ⟨rfl, rfl⟩

theorem spells_of_loadOther {x : Nibble} {o : Operand} (h : loadOther x o = some i) : Spells .ld [o, .reg x] i := by
  unfold loadOther at h
  split at h
  all_goals cases h
  all_goals exact ⟨rfl, rfl⟩

theorem spells_of_loadForm (h : loadForm operands = some i) : Spells .ld operands i := by
  unfold loadForm at h
  split at h
  · obtain ⟨nnn, field, rfl⟩ := Option.map_eq_some_iff.1 h
    rw [toNat_of_fieldOf field]
    exact ⟨rfl, rfl⟩
  · exact spells_of_loadRegister h
  · exact spells_of_loadOther h
  · cases h

theorem spells_of_randomForm (h : randomForm operands = some i) : Spells .rnd operands i := by
  unfold randomForm at h
  split at h
  · obtain ⟨kk, field, rfl⟩ := Option.map_eq_some_iff.1 h
    rw [toNat_of_fieldOf field]
    exact ⟨rfl, rfl⟩
  · cases h

theorem spells_of_drawForm (h : drawForm operands = some i) : Spells .drw operands i := by
  unfold drawForm at h
  split at h
  · obtain ⟨n, field, rfl⟩ := Option.map_eq_some_iff.1 h
    rw [toNat_of_fieldOf field]
    exact ⟨rfl, rfl⟩
  · cases h

/-- What a line builds it spells, but for a shift of one register (R115). -/
theorem spells_of_build (h : build op operands = some i) : Spells op operands i ∨
    (op = .shr ∧ ∃ x, operands = [.reg x] ∧ i = .shr x 0) ∨
      (op = .shl ∧ ∃ x, operands = [.reg x] ∧ i = .shl x 0) := by
  cases op with
  | shr => exact (spells_of_shiftForm (fun _ _ => ⟨rfl, rfl⟩) h).imp_right fun short => .inl ⟨rfl, short⟩
  | shl => exact (spells_of_shiftForm (fun _ _ => ⟨rfl, rfl⟩) h).imp_right fun short => .inr ⟨rfl, short⟩
  | cls | ret => exact .inl (spells_of_noOperand ⟨rfl, rfl⟩ h)
  | jp | call | jpo => exact .inl (spells_of_addressForm (fun _ => ⟨rfl, rfl⟩) h)
  | se | sne => exact .inl (spells_of_compareForm (fun _ _ => ⟨rfl, rfl⟩) (fun _ _ => ⟨rfl, rfl⟩) h)
  | or | and | xor | sub | subn => exact .inl (spells_of_registersForm (fun _ _ => ⟨rfl, rfl⟩) h)
  | skp | sknp => exact .inl (spells_of_registerForm (fun _ => ⟨rfl, rfl⟩) h)
  | ld => exact .inl (spells_of_loadForm h)
  | add => exact .inl (spells_of_addForm h)
  | rnd => exact .inl (spells_of_randomForm h)
  | drw => exact .inl (spells_of_drawForm h)

/-- Settles O6: a spelling builds its instruction, and the forms build what they spell. -/
theorem assemblerForms : Obligations.AssemblerForms := by
  refine ⟨fun _ => build_spelling, fun op operands i h => ?_⟩
  rcases spells_of_build h with ⟨wf, spelt⟩ | ⟨rfl, x, rfl, rfl⟩ | ⟨rfl, x, rfl, rfl⟩
  · exact ⟨wf, .inl spelt⟩
  · exact ⟨rfl, .inr (.inl ⟨x, rfl, rfl⟩)⟩
  · exact ⟨rfl, .inr (.inr ⟨x, rfl, rfl⟩)⟩

end Sys2Proof.Machine
end

section
/-! Where each instruction leaves `PC`, `STATUS` and the call stack (40_control_flow.md R140, R142, R143, R150 to R157;
10_state.md R37). -/
namespace Sys2Proof.Machine

/-- An address operand widened to a word keeps its value (R102). -/
@[simp] theorem toNat_target (nnn : Addr12) : (target nnn).toNat = nnn.toNat :=
  BitVec.toNat_setWidth_of_le (by decide)

/-- A byte widened to a word keeps its value (R10). -/
@[simp] theorem toNat_widen (b : Byte) : (widen b).toNat = b.toNat :=
  BitVec.toNat_setWidth_of_le (by decide)

/-- An ignored nibble passes where `STRICT_DECODE` is off or the nibble is 0 (R109, R114). -/
theorem wf_of_passes {strict : Bool} {i : Instr} {ign : Nibble} (hi : i.ignored = some ign)
    (passes : strict = false ∨ ign = 0) : i.wf strict = true := by
  rcases passes with rfl | zero
  · rfl
  · exact (wf_iff_of_ignored hi).2 fun _ => zero

/-- Settles O15: the target is `PC` after the jump, and the next fetch checks it. -/
theorem jump : Obligations.Jump := by
  intro strict nnn s
  refine ⟨decodeWord_encode (i := .jp nnn) (wf_of_not_ignored rfl), _, rfl, toNat_target nnn, rfl,
    { Keeps.refl {} s with }, fun running outside => ?_⟩
  rw [← toNat_target] at outside
  exact ⟨_, coreStep_fetchRange (s := (s.setPc (target nnn)).alreadySet) running outside, State.raise_faulted ..⟩

/-! `CALL` and `RET` by what the call stack allows (R37, R150, R152). -/

/-- `CALL` with room on the stack (R152). -/
theorem exec_call {s : State} (room : s.sp < s.cfg.stackDepth) (nnn : Addr12) :
    exec (.call nnn) s = .next (({ s with stack := s.stack.set s.sp s.pc, sp := s.sp + 1 } : State).setPc
      (target nnn)).alreadySet := by
  have pushed : s.push s.pc = some _ := if_pos room
  simp [exec, execCall, pushed]

/-- `CALL` on a full stack (R152). -/
theorem exec_call_full {s : State} (full : s.cfg.stackDepth ≤ s.sp) (nnn : Addr12) :
    exec (.call nnn) s = .next (s.raise .stackOverflow s.pc) := by
  have refused : s.push s.pc = none := if_neg (Nat.not_lt.2 full)
  simp [exec, execCall, refused]

/-- `RET` with an entry in use (R150). -/
theorem exec_ret {s : State} (used : 0 < s.sp) (ign : Nibble) :
    exec (.ret ign) s = .next (({ s with sp := s.sp - 1 } : State).setPc
      (resumeAt s.cfg.returnResume (s.entry (s.sp - 1)))).alreadySet := by
  have popped : s.pop = some _ := if_pos used
  simp [exec, execRet, popped]

/-- `RET` on an empty stack (R150). -/
theorem exec_ret_empty {s : State} (empty : s.sp = 0) (ign : Nibble) :
    exec (.ret ign) s = .next (s.raise .stackUnderflow s.pc) := by
  have refused : s.pop = none := if_neg (by omega)
  simp [exec, execRet, refused]

/-- A pushed value is the entry at the old `SP`, in a stack that has that entry (R37). -/
theorem State.entry_pushed_same {s : State} (has : s.sp < s.stack.length) (a : Word) :
    ({ s with stack := s.stack.set s.sp a, sp := s.sp + 1 } : State).entry s.sp = a := by
  simp [State.entry, has]

/-- A push keeps every other entry (R37). -/
theorem State.entry_pushed_ne {s : State} {j : Nat} (other : j ≠ s.sp) (a : Word) :
    ({ s with stack := s.stack.set s.sp a, sp := s.sp + 1 } : State).entry j = s.entry j := by
  simp [State.entry, List.getElem?_set_ne other.symm]

/-- Settles O16: with room `CALL` is `Push` and a jump, on a full stack the fault. -/
theorem callPushesOwnAddress : Obligations.CallPushesOwnAddress := by
  intro strict nnn s
  refine ⟨decodeWord_encode (i := .call nnn) (wf_of_not_ignored rfl), fun room => ?_, fun full => ?_⟩
  · exact ⟨_, exec_call room nnn, rfl, fun size => State.entry_pushed_same (size ▸ room) s.pc,
      List.length_set, fun j other => State.entry_pushed_ne other s.pc, toNat_target nnn, rfl,
      { Keeps.refl _ s with callStack := by simp }⟩
  · exact ⟨_, exec_call_full full nnn, s.raise_faulted ..⟩

/-- Settles O17: with an entry in use `RET` is `Pop` and a jump by `RETURN_RESUME`, on an empty stack the fault. -/
theorem returnResumes : Obligations.ReturnResumes := by
  intro strict ign s
  refine ⟨fun passes => decodeWord_encode (i := .ret ign) (wf_of_passes rfl passes), fun used => ?_, fun empty => ?_⟩
  · exact ⟨_, exec_ret used ign, rfl, rfl, fun resume => congrArg (resumeAt · _) resume,
      fun resume => congrArg (resumeAt · _) resume, rfl, { Keeps.refl _ s with callStack := by simp }⟩
  · exact ⟨_, exec_ret_empty empty ign, s.raise_faulted ..⟩

/-- Settles O18: `RET` pops the address that `CALL` pushed and resumes after it; the entries below were never touched. -/
theorem returnUndoesCall : Obligations.ReturnUndoesCall := by
  intro nnn ign s room size afterCall
  refine ⟨_, _, exec_call room nnn, exec_ret (Nat.succ_pos s.sp) ign, ?_, rfl,
    fun j below => State.entry_pushed_ne below.ne s.pc, { Keeps.refl _ s with callStack := by simp }⟩
  have top := State.entry_pushed_same (size ▸ room : s.sp < s.stack.length) s.pc
  exact congrArg₂ resumeAt afterCall top

/-- Settles O19: the sum of a 12-bit address and a byte is below 2^16, so it does not wrap. -/
theorem jumpOffsetSetsIndex : Obligations.JumpOffsetSetsIndex := by
  intro strict nnn s
  refine ⟨decodeWord_encode (i := .jpo nnn) (wf_of_not_ignored rfl), _, rfl, ?_, ⟨rfl, rfl⟩,
    { Keeps.refl _ s with index := by simp }⟩
  show (target nnn + widen (s.readV 0)).toNat = nnn.toNat + (s.readV 0).toNat
  have address := nnn.isLt
  have offset := (s.readV 0).isLt
  rw [BitVec.toNat_add, toNat_target, toNat_widen]
  omega

/-! The skips (R143). -/

/-- A skip changes nothing but `PC` and `STATUS` (R143). -/
theorem State.skipIf_keeps (s : State) (b : Bool) : Keeps {} s (s.skipIf b) := by
  cases b with
  | false => exact { Keeps.refl {} s with }
  | true => exact { Keeps.refl {} s with }

/-- An instruction that is a skip by a test of `c` does what R143 says of a skip. -/
theorem skip_of_test {b : Bool} {c : Prop} (test : b = true ↔ c) (s : State) :
    ∃ t, (.next (s.skipIf b) : Result) = .next t ∧ SkippedIf c s t ∧ Keeps {} s t :=
  ⟨_, rfl, propext test ▸ s.skipIf_skipped b, s.skipIf_keeps b⟩

/-- Settles O20: both are skips by a comparison with `kk`. -/
theorem skipImmediate : Obligations.SkipImmediate := by
  intro strict x kk s
  exact ⟨⟨decodeWord_encode (i := .seImm x kk) (wf_of_not_ignored rfl), skip_of_test beq_iff_eq s⟩,
    ⟨decodeWord_encode (i := .sneImm x kk) (wf_of_not_ignored rfl), skip_of_test bne_iff_ne s⟩⟩

/-- Settles O21: both are skips by a comparison of the two registers; the ignored nibble is one the decoder lets pass. -/
theorem skipRegister : Obligations.SkipRegister := by
  intro strict x y ign s
  exact ⟨⟨fun passes => decodeWord_encode (i := .seReg x y ign) (wf_of_passes rfl passes),
      skip_of_test beq_iff_eq s⟩,
    ⟨fun passes => decodeWord_encode (i := .sneReg x y ign) (wf_of_passes rfl passes),
      skip_of_test bne_iff_ne s⟩⟩

/-- Of a skip and the skip on the opposite test exactly one is taken (R143). -/
theorem State.skipIf_opposite_pc (s : State) (b : Bool) :
    ((s.skipIf b).pc = s.pc + 4 ∧ (s.skipIf (!b)).pc = s.pc + 2) ∨
      ((s.skipIf b).pc = s.pc + 2 ∧ (s.skipIf (!b)).pc = s.pc + 4) := by
  cases b with
  | false => exact .inr ⟨rfl, rfl⟩
  | true => exact .inl ⟨rfl, rfl⟩

/-- Settles O22: each pair skips on opposite tests; the key test moves `PC` as in the state whose `KEY` it may clear. -/
theorem exactlyOneSkips : Obligations.ExactlyOneSkips := by
  intro x y ign kk s p pair
  simp only [List.mem_cons, List.not_mem_nil, or_false] at pair
  rcases pair with rfl | rfl | rfl
  · exact ⟨_, _, rfl, rfl, s.skipIf_opposite_pc (s.readV x == kk)⟩
  · exact ⟨_, _, rfl, rfl, s.skipIf_opposite_pc (s.readV x == s.readV y)⟩
  · exact ⟨_, _, rfl, rfl,
      (s.setKey (keyAfterSkipRead s.cfg.keyClear s.key)).skipIf_opposite_pc (s.readV x == s.key)⟩

/-- Settles O23, by the kinds of effect: each ends in one way, but for a skip, which ends as its test says. -/
theorem everyInstructionEnds : Obligations.EveryInstructionEnds := by
  intro i s
  obtain ⟨t, answered, effect⟩ := exec_effect i s
  refine ⟨t, answered, ?_⟩
  cases effect with
  | load | loadWithFlag | loadIndex | clear | draw | setDelay | setSound | storeDigits | store =>
    exact .inl ⟨rfl, rfl⟩
  | skip _ taken | skipOnKey _ taken =>
    cases taken with
    | false => exact .inl ⟨rfl, rfl⟩
    | true => exact .inr (.inl ⟨rfl, .inl rfl⟩)
  | jump nnn => exact .inr (.inl ⟨rfl, .inr (.inl ⟨nnn, .inl rfl, toNat_target nnn⟩)⟩)
  | call nnn => exact .inr (.inl ⟨rfl, .inr (.inl ⟨nnn, .inr rfl, toNat_target nnn⟩)⟩)
  | ret ign => exact .inr (.inl ⟨rfl, .inr (.inr ⟨ign, rfl⟩)⟩)
  | overflow | underflow | outside => exact .inr (.inr (.inl ⟨_, _, s.raise_faulted ..⟩))
  | waitForKey x noKey => exact .inr (.inr (.inr ⟨x, rfl, noKey, rfl, rfl, rfl⟩))

/-! The step (R140, log 3). -/

/-- In phase `RUN` the core's step is the instruction that the bytes at `PC` decode to (R111, R140). -/
theorem coreStep_of_decodes {s : State} {i : Instr} (running : s.phase = .run) (decodes : Decodes s i) :
    coreStep s = exec i s := by
  obtain ⟨w, fetched, decoded⟩ := (s.decodes_iff i).1 decodes
  simp [coreStep, running, fetched, decoded]

/-- After a core's step that answers a next state the other agents act (R80, R330). -/
theorem step_of_coreStep {s t : State} (core : coreStep s = .next t) : step s = .next (t.between s.currentInputs) := by
  simp [step, core]

/-- Settles O46: every instruction answers a next state, and the step hands that of the decoded one to the agents. -/
theorem stepRunsDecoded : Obligations.StepRunsDecoded := by
  intro s i running decodes
  obtain ⟨t, answered, _⟩ := exec_effect i s
  exact ⟨t, answered, step_of_coreStep ((coreStep_of_decodes running decodes).trans answered)⟩

end Sys2Proof.Machine
end

section
/-! The ALU family (41_arithmetic_logic.md R180 to R183, R190 to R201): what the two endings `State.result` and
`State.resultWithFlag` leave behind, the value of each flag, then the instructions. -/
namespace Sys2Proof.Machine

/-- An ordinary result ends with ADVANCE (R183). -/
theorem State.result_advanced (s : State) (x : Nibble) (b : Byte) : Advanced s (s.result x b) := ⟨rfl, rfl⟩

/-- An ordinary result writes its destination alone; VF is kept unless it is the destination (R183). -/
theorem State.result_keeps (s : State) (x : Nibble) (b : Byte) : Keeps { regs := [x] } s (s.result x b) :=
  { Keeps.refl _ s with regs := fun _ other => s.readV_result_ne b (by simpa using other) }

/-- A result with a flag ends with ADVANCE (R182). -/
theorem State.resultWithFlag_advanced (s : State) (x : Nibble) (b : Byte) (c : Bool) :
    Advanced s (s.resultWithFlag x b c) := ⟨rfl, rfl⟩

/-- A result with a flag writes its destination and VF (R182). -/
theorem State.resultWithFlag_keeps (s : State) (x : Nibble) (b : Byte) (c : Bool) :
    Keeps { regs := [x, vf] } s (s.resultWithFlag x b c) :=
  { Keeps.refl _ s with
    regs := fun r other => by
      have ⟨notDest, notFlag⟩ : r ≠ x ∧ r ≠ vf := by simpa using other
      exact s.readV_resultWithFlag_ne b c notDest notFlag }

/-- An instruction that is an ordinary result `b` leaves `b` in `V[x]`, advances and writes nothing else. -/
theorem result_of_exec {i : Instr} {s : State} {x : Nibble} {b : Byte} (ends : exec i s = .next (s.result x b)) :
    ∃ t, exec i s = .next t ∧ t.readV x = b ∧ Advanced s t ∧ Keeps { regs := [x] } s t :=
  ⟨_, ends, s.readV_result_same x b, s.result_advanced x b, s.result_keeps x b⟩

/-- An instruction that is a result `b` with flag `c` leaves `b` in `V[x]` unless that is VF, the flag in VF, advances
and writes nothing else. -/
theorem resultWithFlag_of_exec {i : Instr} {s : State} {x : Nibble} {b : Byte} {c : Bool}
    (ends : exec i s = .next (s.resultWithFlag x b c)) :
    ∃ t, exec i s = .next t ∧ (x ≠ vf → t.readV x = b) ∧ t.readV vf = flagByte c ∧ Advanced s t ∧
      Keeps { regs := [x, vf] } s t :=
  ⟨_, ends, s.readV_resultWithFlag_dest b c, s.readV_resultWithFlag_vf x b c, s.resultWithFlag_advanced x b c,
    s.resultWithFlag_keeps x b c⟩

/-! The values (R31, R180, R181). -/

/-- The flag of a comparison, as VF holds it (R31). -/
theorem flagByte_decide (p : Prop) [Decidable p] : flagByte (decide p) = if p then 1 else 0 := by
  simp [flagByte]

/-- A flag as a number (R31). -/
theorem toNat_flagByte (c : Bool) : (flagByte c).toNat = c.toNat := by
  cases c with
  | false => rfl
  | true => rfl

/-- The bit a right shift by one shifts out is the remainder (R181). -/
theorem toNat_shrFlag (a : Byte) : (flagByte (shrFlag a)).toNat = a.toNat % 2 := by
  rw [toNat_flagByte, shrFlag, BitVec.getLsbD, Nat.toNat_testBit, pow_zero, Nat.div_one]

/-- The bit a left shift by one shifts out is the top bit of the byte (R181). -/
theorem toNat_shlFlag (a : Byte) : (flagByte (shlFlag a)).toNat = a.toNat / 128 := by
  have bound := a.isLt
  rw [toNat_flagByte, shlFlag, BitVec.getLsbD, Nat.toNat_testBit]
  omega

/-- Byte subtraction is the exact difference modulo 256 (R180). -/
theorem toNat_sub_byte (a b : Byte) : ((a - b).toNat : Int) = ((a.toNat : Int) - b.toNat) % 256 := by
  have minuend := a.isLt
  have subtrahend := b.isLt
  rw [BitVec.toNat_sub]
  omega

/-! The instructions. -/

/-- Settles O7: the immediate is the result. -/
theorem loadImmediate : Obligations.LoadImmediate :=
  fun _ x kk _ => ⟨decodeWord_encode (i := .ldImm x kk) (wf_of_not_ignored rfl), result_of_exec rfl⟩

/-- Settles O8: the byte sum is the result, with no flag. -/
theorem addImmediate : Obligations.AddImmediate := by
  intro strict x kk s
  obtain ⟨t, answered, value, advanced, keeps⟩ :=
    result_of_exec (i := .addImm x kk) (s := s) (b := s.readV x + kk) rfl
  refine ⟨decodeWord_encode (i := .addImm x kk) (wf_of_not_ignored rfl), t, answered, ?_, advanced, keeps⟩
  rw [value, BitVec.toNat_add]

/-- Settles O9: the other register's byte is the result. -/
theorem copyRegister : Obligations.CopyRegister :=
  fun _ x y _ => ⟨decodeWord_encode (i := .ldReg x y) (wf_of_not_ignored rfl), result_of_exec rfl⟩

/-- An instruction whose ordinary result combines two bytes by `f` bit by bit leaves that combination in `V[x]`. -/
theorem bitwise_of_exec {i : Instr} {s : State} {x : Nibble} {a b r : Byte} {f : Bool → Bool → Bool}
    (ends : exec i s = .next (s.result x r)) (bits : ∀ k, r.getLsbD k = f (a.getLsbD k) (b.getLsbD k)) :
    ∃ t, exec i s = .next t ∧ (∀ k < 8, (t.readV x).getLsbD k = f (a.getLsbD k) (b.getLsbD k)) ∧ Advanced s t ∧
      Keeps { regs := [x] } s t := by
  obtain ⟨t, answered, rfl, advanced, keeps⟩ := result_of_exec ends
  exact ⟨t, answered, fun k _ => bits k, advanced, keeps⟩

/-- Settles O10: the three byte operations work bit by bit. -/
theorem bitwiseLogic : Obligations.BitwiseLogic := by
  intro strict x y s
  exact ⟨⟨decodeWord_encode (i := .or x y) (wf_of_not_ignored rfl), bitwise_of_exec rfl fun _ => BitVec.getLsbD_or⟩,
    ⟨decodeWord_encode (i := .and x y) (wf_of_not_ignored rfl), bitwise_of_exec rfl fun _ => BitVec.getLsbD_and⟩,
    ⟨decodeWord_encode (i := .xor x y) (wf_of_not_ignored rfl), bitwise_of_exec rfl fun _ => BitVec.getLsbD_xor⟩⟩

/-- Settles O11: the byte sum is the result and the carry, written last, is VF. -/
theorem addRegister : Obligations.AddRegister := by
  intro strict x y s
  obtain ⟨t, answered, value, flag, advanced, keeps⟩ := resultWithFlag_of_exec (i := .addReg x y) (s := s) rfl
  refine ⟨decodeWord_encode (i := .addReg x y) (wf_of_not_ignored rfl), t, answered, fun dest => ?_,
    flag.trans (flagByte_decide _), advanced, keeps⟩
  rw [value dest, BitVec.toNat_add]

/-- An instruction that is a byte difference with the no-borrow flag leaves the exact difference modulo 256 and the
comparison of the two bytes. -/
theorem difference_of_exec {i : Instr} {s : State} {x : Nibble} {a b : Byte}
    (ends : exec i s = .next (s.resultWithFlag x (a - b) (subFlag a b))) :
    ∃ t, exec i s = .next t ∧ (x ≠ vf → ((t.readV x).toNat : Int) = ((a.toNat : Int) - b.toNat) % 256) ∧
      t.readV vf = (if b.toNat ≤ a.toNat then 1 else 0) ∧ Advanced s t ∧ Keeps { regs := [x, vf] } s t := by
  obtain ⟨t, answered, value, flag, advanced, keeps⟩ := resultWithFlag_of_exec ends
  refine ⟨t, answered, fun dest => ?_, flag.trans (flagByte_decide _), advanced, keeps⟩
  rw [value dest, toNat_sub_byte]

/-- Settles O12: the two instructions are one difference with its operands exchanged. -/
theorem subtract : Obligations.Subtract :=
  fun _ x y _ => ⟨⟨decodeWord_encode (i := .sub x y) (wf_of_not_ignored rfl), difference_of_exec rfl⟩,
    ⟨decodeWord_encode (i := .subn x y) (wf_of_not_ignored rfl), difference_of_exec rfl⟩⟩

/-- `SHR` halves `V[x]` and leaves the remainder in VF (R198). -/
theorem exec_shr_spec (x y : Nibble) (s : State) :
    ∃ t, exec (.shr x y) s = .next t ∧ (x ≠ vf → (t.readV x).toNat = (s.readV x).toNat / 2) ∧
      (t.readV vf).toNat = (s.readV x).toNat % 2 ∧ Advanced s t ∧ Keeps { regs := [x, vf] } s t := by
  obtain ⟨t, answered, value, flag, advanced, keeps⟩ := resultWithFlag_of_exec (i := .shr x y) (s := s) rfl
  refine ⟨t, answered, fun dest => ?_, ?_, advanced, keeps⟩
  · rw [value dest, BitVec.toNat_ushiftRight, Nat.shiftRight_one]
  · rw [flag, toNat_shrFlag]

/-- `SHL` doubles `V[x]` modulo 256 and leaves the top bit in VF (R200). -/
theorem exec_shl_spec (x y : Nibble) (s : State) :
    ∃ t, exec (.shl x y) s = .next t ∧ (x ≠ vf → (t.readV x).toNat = (s.readV x).toNat * 2 % 256) ∧
      (t.readV vf).toNat = (s.readV x).toNat / 128 ∧ Advanced s t ∧ Keeps { regs := [x, vf] } s t := by
  obtain ⟨t, answered, value, flag, advanced, keeps⟩ := resultWithFlag_of_exec (i := .shl x y) (s := s) rfl
  refine ⟨t, answered, fun dest => ?_, ?_, advanced, keeps⟩
  · rw [value dest, BitVec.toNat_shiftLeft, Nat.shiftLeft_eq, pow_one]
  · rw [flag, toNat_shlFlag]

/-- Settles O13: each shift leaves its result in `V[x]` and then the bit it shifted out in VF. -/
theorem shift : Obligations.Shift :=
  fun _ x y s => ⟨⟨decodeWord_encode (i := .shr x y) (wf_of_not_ignored rfl), exec_shr_spec x y s⟩,
    ⟨decodeWord_encode (i := .shl x y) (wf_of_not_ignored rfl), exec_shl_spec x y s⟩⟩

/-- Settles O14: the mask works bit by bit on the source's byte, and a source may answer any byte next. -/
theorem randomByteUnderMask : Obligations.RandomByteUnderMask := by
  intro strict x kk s
  exact ⟨decodeWord_encode (i := .rnd x kk) (wf_of_not_ignored rfl), bitwise_of_exec rfl fun _ => BitVec.getLsbD_and,
    fun r => ⟨[{ Config.freeInputs s.draws with randByte := r }], rfl⟩⟩

end Sys2Proof.Machine
end

section
/-! The index register, memory, BCD and font family (42_memory_bcd_font.md R230 to R240): what a write of `I` leaves
behind, the glyph address, the fault of a guarded access, then the instructions. -/
namespace Sys2Proof.Machine

/-- An instruction that sets `I` to `a` and ends with ADVANCE writes nothing else (R232 to R234). -/
theorem index_of_exec {i : Instr} {s : State} {a : Word} (ends : exec i s = .next (s.setI a).advance) :
    ∃ t, exec i s = .next t ∧ t.i = a ∧ Advanced s t ∧ Keeps { index := true } s t :=
  ⟨_, ends, rfl, ⟨rfl, rfl⟩, { Keeps.refl _ s with index := by simp }⟩

/-- Settles O24: the address is the new `I`, zero-extended. -/
theorem loadIndex : Obligations.LoadIndex := by
  intro strict nnn s
  obtain ⟨t, answered, index, advanced, keeps⟩ := index_of_exec (i := .ldI nnn) (s := s) rfl
  exact ⟨decodeWord_encode (i := .ldI nnn) (wf_of_not_ignored rfl), t, answered,
    index ▸ toNat_target nnn, advanced, keeps⟩

/-- Settles O25: the word sum with the widened byte is the sum modulo 2^16. -/
theorem addToIndex : Obligations.AddToIndex := by
  intro strict x s
  obtain ⟨t, answered, index, advanced, keeps⟩ := index_of_exec (i := .addIVx x) (s := s) rfl
  refine ⟨decodeWord_encode (i := .addIVx x) (wf_of_not_ignored rfl), t, answered, ?_, advanced, keeps⟩
  rw [index, BitVec.toNat_add, toNat_widen]

/-! The font lookup (R234, R235). -/

/-- A hexadecimal digit has a glyph, `GLYPH_SIZE` bytes for each digit before it after `FONT_BASE` (R234). -/
theorem State.glyphAddr_digit (s : State) {b : Byte} (digit : b.toNat ≤ 15) :
    s.glyphAddr b = s.fontBase + BitVec.ofNat 16 (b.toNat * s.cfg.glyphSize) := by
  rw [State.glyphAddr, if_pos digit, BitVec.ofNat_add, BitVec.ofNat_toNat, BitVec.setWidth_eq]

/-- Any other byte has no glyph, and the lookup answers `I` (R234). -/
theorem State.glyphAddr_noDigit (s : State) {b : Byte} (noDigit : 15 < b.toNat) : s.glyphAddr b = s.i :=
  if_neg (Nat.not_le.2 noDigit)

/-- The glyph address depends on the byte, `FONT_BASE` and `GLYPH_SIZE` alone (R235). -/
theorem State.glyphAddr_congr {s s' : State} {b : Byte} (digit : b.toNat ≤ 15) (base : s'.fontBase = s.fontBase)
    (size : s'.cfg.glyphSize = s.cfg.glyphSize) : s'.glyphAddr b = s.glyphAddr b := by
  rw [s'.glyphAddr_digit digit, s.glyphAddr_digit digit, base, size]

/-- The glyph of the next digit is `GLYPH_SIZE` bytes further (R235). -/
theorem State.glyphAddr_next {s s' : State} {b b' : Byte} (below : b.toNat < 15) (next : b'.toNat = b.toNat + 1)
    (base : s'.fontBase = s.fontBase) (size : s'.cfg.glyphSize = s.cfg.glyphSize) :
    s'.glyphAddr b' = s.glyphAddr b + BitVec.ofNat 16 s.cfg.glyphSize := by
  rw [s'.glyphAddr_digit (by omega), s.glyphAddr_digit (by omega), base, size, next, Nat.succ_mul, BitVec.ofNat_add,
    BitVec.add_assoc]

/-- `LD_F_VX` points `I` at the glyph address (R234). -/
theorem exec_ldFVx (x : Nibble) (s : State) :
    exec (.ldFVx x) s = .next (s.setI (s.glyphAddr (s.readV x))).advance := rfl

/-- Settles O26, by the two sides of the lookup. -/
theorem loadFontAddress : Obligations.LoadFontAddress := by
  intro strict x s
  obtain ⟨t, answered, index, advanced, keeps⟩ := index_of_exec (exec_ldFVx x s)
  refine ⟨decodeWord_encode (i := .ldFVx x) (wf_of_not_ignored rfl), t, answered, fun digit => ?_, fun noDigit => ?_,
    advanced, keeps⟩
  · rw [index, s.glyphAddr_digit digit, BitVec.toNat_add, BitVec.toNat_ofNat, Nat.add_mod_mod]
  · rw [index, s.glyphAddr_noDigit noDigit]

/-- Settles O27: the laws of the glyph address, and above 15 the old `I` written back. -/
theorem fontLookupLaws : Obligations.FontLookupLaws := by
  intro x s s'
  obtain ⟨t, answered, index, advanced, keeps⟩ := index_of_exec (exec_ldFVx x s)
  obtain ⟨t', answered', index', _, _⟩ := index_of_exec (exec_ldFVx x s')
  refine ⟨t, t', answered, answered', fun digit same base size => ?_, fun below next base size => ?_,
    fun noDigit => ⟨advanced, { keeps with index := fun _ => ?_ }⟩⟩
  · rw [index, index', same, State.glyphAddr_congr digit base size]
  · rw [index, index', State.glyphAddr_next below next base size]
  · rw [index, s.glyphAddr_noDigit noDigit]

/-! The accesses at `I` (R77, R78). -/

/-- An instruction guarded by a range check takes MEM_RANGE where the last byte it reaches lies outside memory, with
nothing written (R77, R78). -/
theorem memRange_of_exec {i : Instr} {s after : State} {n : Nat} (guarded : exec i s = s.guardRange (n + 1) after)
    (outside : s.cfg.memSize ≤ s.i.toNat + n) : ∃ t, exec i s = .next t ∧ Faulted .memRange s.i s t := by
  have bad : s.rangeOk (n + 1) = false := by
    rw [Bool.eq_false_iff, ne_eq, State.rangeOk_last]
    omega
  exact ⟨_, guarded.trans (State.guardRange_fault bad after), s.raise_faulted .memRange s.i⟩

/-- A write to an address that a frame lets change stays within the frame (R79). -/
theorem Keeps.memWrite {c : MayChange} {s t : State} (keeps : Keeps c s t) {a : Nat} (listed : a ∈ c.bytes)
    (b : Byte) : Keeps c s (t.memWrite a b) :=
  { keeps with
    bytes := fun adr other => by
      have elsewhere : adr ≠ a := fun same => other (same ▸ listed)
      rw [State.memRead_memWrite_ne t b elsewhere, keeps.bytes adr other] }

/-- Every frame lets `PC` and `STATUS` change (R142). -/
theorem Keeps.advance {c : MayChange} {s t : State} (keeps : Keeps c s t) : Keeps c s t.advance :=
  { keeps with }

theorem toNat_hundreds (b : Byte) : (hundreds b).toNat = b.toNat / 100 := by
  have bound := b.isLt
  rw [hundreds, BitVec.toNat_ofNat]
  omega

/-- `LD_B_VX` inside memory leaves the three digits of `V[x]` at `I`, the ones first, advances and writes nothing else
(R236). -/
theorem exec_ldBVx_spec {s : State} (inside : s.i.toNat + 2 < s.cfg.memSize) (x : Nibble) :
    ∃ t, exec (.ldBVx x) s = .next t ∧ (t.memRead s.i.toNat).toNat = (s.readV x).toNat % 10 ∧
      (t.memRead (s.i.toNat + 1)).toNat = (s.readV x).toNat / 10 % 10 ∧
        (t.memRead (s.i.toNat + 2)).toNat = (s.readV x).toNat / 100 ∧ Advanced s t ∧
          Keeps { bytes := [s.i.toNat, s.i.toNat + 1, s.i.toNat + 2] } s t := by
  obtain ⟨first, second, third⟩ := s.memRead_threeWrites s.i.toNat (ones (s.readV x)) (tens (s.readV x))
    (hundreds (s.readV x))
  refine ⟨_, exec_ldBVx inside x, ?_, ?_, ?_, ⟨rfl, rfl⟩, ?_⟩
  · rw [State.advance_memRead, first, toNat_ones]
  · rw [State.advance_memRead, second, toNat_tens]
  · rw [State.advance_memRead, third, toNat_hundreds]
  · exact ((((Keeps.refl _ s).memWrite (by simp) _).memWrite (by simp) _).memWrite (by simp) _).advance

/-- Settles O28: inside memory the three writes, outside it the fault; the next fetch reads memory as it then is. -/
theorem storeDecimal : Obligations.StoreDecimal := by
  intro strict x s
  refine ⟨decodeWord_encode (i := .ldBVx x) (wf_of_not_ignored rfl), fun inside => ?_, memRange_of_exec (n := 2) rfl⟩
  obtain ⟨t, answered, first, second, third, advanced, keeps⟩ := exec_ldBVx_spec inside x
  exact ⟨t, answered, first, second, third, advanced, keeps,
    fun fetchable => State.fetchWord_inside (by rwa [keeps.cfg])⟩

/-- The three decimal digits of a byte are digits, the hundreds at most 2, and spell the byte (R237). -/
theorem decimalDigits_byte (b : Byte) :
    b.toNat % 10 + 10 * (b.toNat / 10 % 10) + 100 * (b.toNat / 100) = b.toNat ∧ b.toNat % 10 ≤ 9 ∧
      b.toNat / 10 % 10 ≤ 9 ∧ b.toNat / 100 ≤ 2 := by
  have bound := b.isLt
  omega

/-- Settles O29: the stored bytes are the digits of the byte. -/
theorem decimalDigitsSpellValue : Obligations.DecimalDigitsSpellValue := by
  intro x s inside
  obtain ⟨t, answered, first, second, third, _, _⟩ := exec_ldBVx_spec inside x
  exact ⟨t, answered, _, _, _, first, second, third, decimalDigits_byte (s.readV x)⟩

/-- Settles O30: inside memory one write at `I`, outside it the fault. -/
theorem spillRegister : Obligations.SpillRegister := by
  intro strict x s
  refine ⟨decodeWord_encode (i := .ldMemVx x) (wf_of_not_ignored rfl), fun inside => ?_, memRange_of_exec (n := 0) rfl⟩
  exact ⟨_, exec_ldMemVx inside x, s.memRead_memWrite_same _ _, ⟨rfl, rfl⟩,
    ((Keeps.refl _ s).memWrite (by simp) _).advance⟩

/-- Settles O31: inside memory the byte at `I` is an ordinary result, outside it the fault. -/
theorem fillRegister : Obligations.FillRegister :=
  fun _ x _ => ⟨decodeWord_encode (i := .ldVxMem x) (wf_of_not_ignored rfl),
    fun inside => result_of_exec (exec_ldVxMem inside x), memRange_of_exec (n := 0) rfl⟩

end Sys2Proof.Machine
end

section
/-! The display, keyboard and timer family (43_display_timer_keyboard.md R270 to R285): clearing the display, what a
draw leaves behind, the tests of `KEY`, the key wait and the timer registers. -/
namespace Sys2Proof.Machine

/-- Settles O34: the framebuffer is the blank one, and nothing else is written. -/
theorem clearDisplay : Obligations.ClearDisplay := by
  intro strict ign s
  exact ⟨fun passes => decodeWord_encode (i := .cls ign) (wf_of_passes rfl passes), _, rfl,
    fun px py => s.fb.pixel_clear px py, ⟨rfl, rfl⟩, { Keeps.refl _ s with pixels := by simp }⟩

/-! Drawing a sprite (R272, R273, R333). -/

/-- The state after a `DRW` whose sprite lies inside memory (R272). -/
def State.drawn (s : State) (x y n : Nibble) : State :=
  let picture := s.fb.render s.cfg (s.readV x) (s.readV y) (s.sprite n)
  ((s.setFb picture.1).writeFlag picture.2).advance

/-- `DRW` is a draw guarded by the range check of the sprite (R272). -/
theorem exec_drw (x y n : Nibble) (s : State) :
    exec (.drw x y n) s = s.guardRange n.toNat (s.drawn x y n) := rfl

/-- `DRW` with its sprite inside memory (R272). -/
theorem exec_drw_inside {s : State} {n : Nibble} (inside : n = 0 ∨ s.i.toNat + n.toNat - 1 < s.cfg.memSize)
    (x y : Nibble) : exec (.drw x y n) s = .next (s.drawn x y n) := by
  refine State.guardRange_ok ((s.rangeOk_last n.toNat).2 ?_) _
  rcases inside with rfl | inside
  · exact .inl rfl
  · omega

/-- `DRW` with its sprite leaving memory (R77, R272). -/
theorem exec_drw_outside {s : State} {n : Nibble} (rows : n ≠ 0)
    (outside : s.cfg.memSize ≤ s.i.toNat + n.toNat - 1) (x y : Nibble) :
    ∃ t, exec (.drw x y n) s = .next t ∧ Faulted .memRange s.i s t := by
  obtain ⟨m, size⟩ : ∃ m, n.toNat = m + 1 :=
    Nat.exists_eq_succ_of_ne_zero fun zero => rows (BitVec.eq_of_toNat_eq zero)
  exact memRange_of_exec (n := m) (size ▸ exec_drw x y n s) (by omega)

/-- A draw writes VF and pixels, and nothing else but `PC` and `STATUS` (R272). -/
theorem State.drawn_keeps (s : State) (x y n : Nibble) : Keeps { regs := [vf], pixels := true } s (s.drawn x y n) :=
  { Keeps.refl _ s with
    regs := fun r other => (s.setFb _).readV_writeFlag_ne _ (by simpa using other)
    pixels := by simp }

/-- A draw toggles a pixel once for each bit that lands on it (R333). -/
theorem State.pixel_drawn (s : State) (x y n : Nibble) (px py : Nat) :
    (s.drawn x y n).fb.pixel px py = (s.fb.pixel px py ^^ decide (s.hits x y n px py % 2 = 1)) := by
  rw [← s.count_sprite]
  exact s.fb.pixel_toggleAll _ px py

/-- A draw changes the pixels on which an odd number of bits land (R272, R333). -/
theorem State.pixel_drawn_ne_iff (s : State) (x y n : Nibble) (px py : Nat) :
    (s.drawn x y n).fb.pixel px py ≠ s.fb.pixel px py ↔ s.hits x y n px py % 2 = 1 := by
  rw [s.pixel_drawn]
  cases s.fb.pixel px py <;> simp

/-- On a framebuffer at least 8 wide and as high as the sprite the pixels with an odd number of hits are those the
sprite covers. -/
theorem State.hits_odd_iff_covers (s : State) (x y n : Nibble) (wide : 8 ≤ s.cfg.fbWidth)
    (high : n.toNat ≤ s.cfg.fbHeight) (px py : Nat) : s.hits x y n px py % 2 = 1 ↔ s.Covers x y n px py := by
  have atMostOne := s.hits_le_one x y n wide high px py
  rw [s.covers_iff]
  omega

/-- A bit of the sprite meets a pixel that is on: one that was on before, or one that an earlier bit turned on (R333,
log 8). -/
def State.Collides (s : State) (x y n : Nibble) : Prop :=
  ∃ px py, s.Covers x y n px py ∧ (s.fb.pixel px py = true ∨ 2 ≤ s.hits x y n px py)

/-- The framebuffer reports exactly the collisions (R333). -/
theorem State.collided_iff (s : State) (x y n : Nibble) :
    (s.fb.render s.cfg (s.readV x) (s.readV y) (s.sprite n)).2 = true ↔ s.Collides x y n := by
  rw [Framebuffer.render, Framebuffer.collided_toggleAll]
  refine exists_congr fun px => exists_congr fun py => ?_
  rw [s.count_sprite, s.covers_iff]
  constructor
  · rintro (⟨hit, on⟩ | twice)
    · exact ⟨hit, .inl on⟩
    · exact ⟨by omega, .inr twice⟩
  · rintro ⟨hit, on | twice⟩
    · exact .inl ⟨hit, on⟩
    · exact .inr twice

/-- VF after a draw with a collision (R272). -/
theorem State.flag_drawn_of_collides {s : State} {x y n : Nibble} (collides : s.Collides x y n) :
    (s.drawn x y n).readV vf = 1 :=
  ((s.setFb _).readV_writeFlag_vf _).trans (congrArg flagByte ((s.collided_iff x y n).2 collides))

/-- VF after a draw without a collision (R272). -/
theorem State.flag_drawn_of_not_collides {s : State} {x y n : Nibble} (free : ¬ s.Collides x y n) :
    (s.drawn x y n).readV vf = 0 := by
  have notReported := mt (s.collided_iff x y n).1 free
  exact ((s.setFb _).readV_writeFlag_vf _).trans (congrArg flagByte (Bool.eq_false_iff.2 notReported))

/-- After a draw VF is 1 exactly if there was a collision (R272). -/
theorem State.flag_drawn_iff (s : State) (x y n : Nibble) : (s.drawn x y n).readV vf = 1 ↔ s.Collides x y n := by
  refine ⟨fun one => ?_, State.flag_drawn_of_collides⟩
  by_contra free
  rw [State.flag_drawn_of_not_collides free] at one
  exact absurd one (by decide)

/-- Settles O35: inside memory the draw, outside it the fault. -/
theorem drawSprite : Obligations.DrawSprite := by
  intro strict x y n s
  refine ⟨decodeWord_encode (i := .drw x y n) (wf_of_not_ignored rfl), fun inside => ?_,
    fun rows outside => exec_drw_outside rows outside x y⟩
  exact ⟨_, exec_drw_inside inside x y, s.pixel_drawn_ne_iff x y n,
    fun wide high px py => (s.pixel_drawn_ne_iff x y n px py).trans (s.hits_odd_iff_covers x y n wide high px py),
    State.flag_drawn_of_collides, State.flag_drawn_of_not_collides, ⟨rfl, rfl⟩, s.drawn_keeps x y n⟩

/-- Toggles keep the canonical form, on the grid or off it. -/
theorem Framebuffer.toggleAll_canonical {fb : Framebuffer} (h : fb.wf) (ps : List (Nat × Nat)) :
    (fb.toggleAll ps).1.wf := by
  induction ps generalizing fb with
  | nil => exact h
  | cons p rest ih => exact ih (Framebuffer.toggle_wf h p.1 p.2)

theorem State.drawn_canonical {s : State} (h : s.fb.wf) (x y n : Nibble) : (s.drawn x y n).fb.wf :=
  Framebuffer.toggleAll_canonical h _

/-- The bits of a sprite land on the same pixels after a draw, if the coordinates are the same (R273). -/
theorem State.hits_drawn {s : State} {x y n : Nibble} (column : (s.drawn x y n).readV x = s.readV x)
    (row : (s.drawn x y n).readV y = s.readV y) (px py : Nat) :
    (s.drawn x y n).hits x y n px py = s.hits x y n px py := by
  rw [State.hits, column, row]
  rfl

/-- A second draw at the same coordinates undoes the first (R273). -/
theorem State.pixel_drawn_twice {s : State} {x y n : Nibble} (column : (s.drawn x y n).readV x = s.readV x)
    (row : (s.drawn x y n).readV y = s.readV y) (px py : Nat) :
    ((s.drawn x y n).drawn x y n).fb.pixel px py = s.fb.pixel px py := by
  rw [State.pixel_drawn, State.pixel_drawn, State.hits_drawn column row, Bool.xor_assoc, Bool.xor_self, Bool.xor_false]

/-- Over pixels that are off a sprite whose bits land apart does not collide (R273). -/
theorem State.not_collides_of_off {s : State} {x y n : Nibble} (wide : 8 ≤ s.cfg.fbWidth)
    (high : n.toNat ≤ s.cfg.fbHeight) (off : ∀ px py, s.Covers x y n px py → s.fb.pixel px py = false) :
    ¬ s.Collides x y n := by
  rintro ⟨px, py, covers, on | twice⟩
  · exact absurd on (by simp [off px py covers])
  · exact absurd (s.hits_le_one x y n wide high px py) (by omega)

/-- After a draw over pixels that were off, the same draw collides wherever the sprite covers a pixel (R273). -/
theorem State.collides_drawn_iff {s : State} {x y n : Nibble} (column : (s.drawn x y n).readV x = s.readV x)
    (row : (s.drawn x y n).readV y = s.readV y) (wide : 8 ≤ s.cfg.fbWidth) (high : n.toNat ≤ s.cfg.fbHeight)
    (off : ∀ px py, s.Covers x y n px py → s.fb.pixel px py = false) :
    (s.drawn x y n).Collides x y n ↔ ∃ px py, s.Covers x y n px py := by
  have same (px py : Nat) : (s.drawn x y n).Covers x y n px py ↔ s.Covers x y n px py := by
    rw [State.covers_iff, State.covers_iff, State.hits_drawn column row]
  constructor
  · rintro ⟨px, py, covers, _⟩
    exact ⟨px, py, (same px py).1 covers⟩
  · rintro ⟨px, py, covers⟩
    refine ⟨px, py, (same px py).2 covers, .inl ?_⟩
    simp [State.pixel_drawn, off px py covers, (s.hits_odd_iff_covers x y n wide high px py).2 covers]

/-- Settles O36: both draws are the draw of one sprite at one place, and the second meets what the first drew. -/
theorem drawTwiceRestores : Obligations.DrawTwiceRestores := by
  intro x y n s inside
  refine ⟨_, exec_drw_inside inside x y, fun column row =>
    ⟨_, exec_drw_inside (s := s.drawn x y n) inside x y, State.pixel_drawn_twice column row, fun canonical => ?_,
      fun wide high off => ⟨?_, ?_⟩⟩⟩
  · exact Framebuffer.ext_pixel (State.drawn_canonical (State.drawn_canonical canonical x y n) x y n) canonical
      (State.pixel_drawn_twice column row)
  · exact State.flag_drawn_of_not_collides (State.not_collides_of_off wide high off)
  · exact (State.flag_drawn_iff _ x y n).trans (State.collides_drawn_iff column row wide high off)

/-! The keyboard (R275 to R281). -/

/-- An instruction that skips on a test of `c` after `KEY_CLEAR` has been applied to `KEY` writes nothing else (R275 to
R277). -/
theorem skipOnKey_of_exec {i : Instr} {s : State} {b : Bool} {c : Prop} (test : b = true ↔ c)
    (ends : exec i s = .next ((s.setKey (keyAfterSkipRead s.cfg.keyClear s.key)).skipIf b)) :
    ∃ t, exec i s = .next t ∧ SkippedIf c s t ∧ (s.cfg.keyClear = .never → t.key = s.key) ∧
      (s.cfg.keyClear = .afterSkipRead → t.key = 0) ∧ Keeps { key := true } s t := by
  obtain ⟨t, answered, skipped, keeps⟩ := skip_of_test test (s.setKey (keyAfterSkipRead s.cfg.keyClear s.key))
  have key : t.key = keyAfterSkipRead s.cfg.keyClear s.key := keeps.key rfl
  refine ⟨t, ends.trans answered, ⟨skipped.taken, fun other => ?_⟩, fun policy => ?_, fun policy => ?_,
    { keeps with key := by simp }⟩
  · exact ⟨(skipped.notTaken other).pc, (skipped.notTaken other).status⟩
  · rw [key, policy, keyAfterSkipRead]
  · rw [key, policy, keyAfterSkipRead]

/-- Settles O37: the two instructions skip on opposite comparisons with the old `KEY`. -/
theorem skipOnKey : Obligations.SkipOnKey :=
  fun _ x _ =>
    ⟨⟨decodeWord_encode (i := .skp x) (wf_of_not_ignored rfl), skipOnKey_of_exec beq_iff_eq rfl⟩,
      ⟨decodeWord_encode (i := .sknp x) (wf_of_not_ignored rfl), skipOnKey_of_exec bne_iff_ne rfl⟩⟩

/-- `LD_VX_K` with a key pressed (R280). -/
theorem exec_ldVxK_pressed {s : State} (pressed : s.key ≠ 0) (x : Nibble) :
    exec (.ldVxK x) s = .next (s.result x s.key) := if_neg pressed

/-- `LD_VX_K` with no key pressed (R280). -/
theorem exec_ldVxK_noKey {s : State} (noKey : s.key = 0) (x : Nibble) :
    exec (.ldVxK x) s = .next (s.setPhase (.waitKey x)) := if_pos noKey

/-- Settles O38: a pressed key is an ordinary result; without one only the phase is written. -/
theorem loadKeyOrWait : Obligations.LoadKeyOrWait :=
  fun _ x s =>
    ⟨decodeWord_encode (i := .ldVxK x) (wf_of_not_ignored rfl),
      fun pressed => result_of_exec (exec_ldVxK_pressed pressed x),
      fun noKey => ⟨_, exec_ldVxK_noKey noKey x, rfl, rfl, rfl, { Keeps.refl _ s with phase := by simp }⟩⟩

/-- The completion of `LD_VX_K` writes `KEY`, its destination and the phase (R281). -/
theorem State.keyArrives_keeps (s : State) (x : Nibble) (k : Byte) :
    Keeps { regs := [x], key := true, phase := true } s (s.keyArrives x k) :=
  { Keeps.refl _ s with
    regs := fun r other => (s.setKey k).readV_writeV_ne k (by simpa using other)
    key := by simp
    phase := by simp }

/-- A key answered in `WAIT_KEY` completes the `LD_VX_K` (R281). -/
theorem coreStep_keyArrives {s : State} {x : Nibble} {k : Byte} (waiting : s.phase = .waitKey x) (pressed : k ≠ 0)
    (answer : s.currentInputs.keyAnswer = some k) : coreStep s = .next (s.keyArrives x k) := by
  rw [coreStep_waitKey waiting, State.keyWaitStep, answer]
  exact congrArg Host.Outcome.next (if_neg pressed)

/-- Settles O39: the answer completes the instruction. -/
theorem keyAnswerCompletes : Obligations.KeyAnswerCompletes := by
  intro x k s waiting pressed answer
  exact ⟨_, coreStep_keyArrives waiting pressed answer, rfl, (s.setKey k).readV_writeV_same x k, rfl, ⟨rfl, rfl⟩,
    s.keyArrives_keeps x k⟩

/-- With no answer, or the answer 0, the core in `WAIT_KEY` holds (R281, logs 10 and 12). -/
theorem coreStep_holds {s : State} {x : Nibble} (waiting : s.phase = .waitKey x)
    (noAnswer : s.currentInputs.keyAnswer = none ∨ s.currentInputs.keyAnswer = some 0) : coreStep s = .next s := by
  rw [coreStep_waitKey waiting, State.keyWaitStep]
  rcases noAnswer with silent | zero
  · rw [silent]
  · rw [zero]; rfl

/-- Settles O40: the core's step leaves the state as it is, and then the other agents act. -/
theorem keyWaitHolds : Obligations.KeyWaitHolds := by
  intro x s waiting noAnswer
  have running : s.phase ≠ .halted := by simp [waiting]
  refine ⟨_, step_of_coreStep (coreStep_holds waiting noAnswer), ?_⟩
  rw [State.between_running running]
  exact ⟨waiting, rfl, rfl, ticksTimer_toNat .., ticksTimer_toNat .., rfl,
    { Keeps.refl _ s with delay := by simp, sound := by simp, key := by simp }⟩

/-! The timer registers (R283 to R285). -/

/-- Settles O41: reading `DT` is an ordinary result, and the two writes name their timer alone. -/
theorem timerRegisters : Obligations.TimerRegisters :=
  fun _ x s =>
    ⟨⟨decodeWord_encode (i := .ldVxDt x) (wf_of_not_ignored rfl), result_of_exec rfl⟩,
      ⟨decodeWord_encode (i := .ldDtVx x) (wf_of_not_ignored rfl), _, rfl, rfl, ⟨rfl, rfl⟩,
        { Keeps.refl _ s with delay := by simp }⟩,
      ⟨decodeWord_encode (i := .ldStVx x) (wf_of_not_ignored rfl), _, rfl, rfl, ⟨rfl, rfl⟩,
        { Keeps.refl _ s with sound := by simp }⟩⟩

end Sys2Proof.Machine
end

section
/-! Faults (60_exceptions.md R310 to R314, R339): which fault is due, that the core takes it and no other, and what a
step that takes none leaves of the fault record and the phase. -/
namespace Sys2Proof.Machine

/-- An instruction that reaches a byte outside memory takes MEM_RANGE (R77, R78). -/
theorem exec_outside {i : Instr} {s : State} (bad : s.rangeOk (reachOf i) = false) :
    exec i s = .next (s.raise .memRange s.i) := by
  cases i with
  | drw | ldBVx | ldMemVx | ldVxMem => exact State.guardRange_fault bad _
  | _ => cases bad

/-- The range check fails exactly where a byte of the range lies outside memory (R77). -/
theorem State.rangeOk_eq_false_iff (s : State) (n : Nat) :
    s.rangeOk n = false ↔ ∃ k < n, s.cfg.memSize ≤ s.i.toNat + k := by
  rw [Bool.eq_false_iff, ne_eq, State.rangeOk_iff]
  push Not
  rfl

/-- A running core that fetches a word no instruction has takes UNIMPLEMENTED (R112, R311). -/
theorem coreStep_unimplemented {s : State} {w : Word} {e : DecodeError} (running : s.phase = .run)
    (fetched : s.fetchWord = some w) (bad : decodeWord s.cfg.strictDecode w = .error e) :
    coreStep s = .next (s.raise .unimplemented w) := by
  simp [coreStep, running, fetched, bad]

/-- A running core takes the fault that is due (R311, R312). -/
theorem coreStep_of_faultDue {s : State} {cause : FaultCause} {info : Word} (running : s.phase = .run)
    (due : FaultDue s cause info) : coreStep s = .next (s.raise cause info) := by
  cases due with
  | fetch outside => exact coreStep_fetchRange running outside
  | word _ e fetches bad => exact coreStep_unimplemented running ((s.fetchWord_iff info).2 fetches) bad
  | call nnn decodes full => exact (coreStep_of_decodes running decodes).trans (exec_call_full full nnn)
  | ret ign decodes empty => exact (coreStep_of_decodes running decodes).trans (exec_ret_empty empty ign)
  | data i k decodes reached outside =>
    have bad := (s.rangeOk_eq_false_iff (reachOf i)).2 ⟨k, reached, outside⟩
    exact (coreStep_of_decodes running decodes).trans (exec_outside bad)

/-- At most one fault is due: the core takes it, and its record says which it was (R314). -/
theorem FaultDue.unique {s : State} {cause cause' : FaultCause} {info info' : Word} (running : s.phase = .run)
    (due : FaultDue s cause info) (due' : FaultDue s cause' info') : cause' = cause ∧ info' = info := by
  have same : s.raise cause' info' = s.raise cause info :=
    Host.Outcome.next.inj ((coreStep_of_faultDue running due').symm.trans (coreStep_of_faultDue running due))
  exact ⟨congrArg State.faultCause same, congrArg State.faultInfo same⟩

/-- A step from `s` to `t` took no fault: the record stands, the core is not halted, and STATUS is not FAILED, except
that a core that starts to wait for a key keeps the STATUS it had (log 11). -/
structure NoFaultTaken (s t : State) : Prop where
  faultCause : t.faultCause = s.faultCause
  faultInfo : t.faultInfo = s.faultInfo
  notHalted : t.phase ≠ .halted
  notFailed : t.status = .failed → t.phase ≠ .run

/-- A skip ends with ADVANCE or ALREADY_SET (R143). -/
theorem State.skipIf_status_ne_failed (s : State) (c : Bool) : (s.skipIf c).status ≠ .failed := by
  cases c with
  | false => simp [State.skipIf_false]
  | true => simp [State.skipIf_true]

/-- An instruction of a running core takes a fault that is due or none, by the kinds of effect. -/
theorem Effect.faultDue_or_noFaultTaken {s t : State} {i : Instr} (effect : Effect s i t) (running : s.phase = .run)
    (decodes : Decodes s i) :
    (∃ cause info, FaultDue s cause info ∧ t = s.raise cause info) ∨ NoFaultTaken s t := by
  cases effect with
  | overflow nnn full => exact .inl ⟨_, _, .call nnn decodes full, rfl⟩
  | underflow ign empty => exact .inl ⟨_, _, .ret ign decodes empty, rfl⟩
  | outside bad =>
    obtain ⟨k, reached, outside⟩ := (s.rangeOk_eq_false_iff (reachOf i)).1 bad
    exact .inl ⟨_, _, .data i k decodes reached outside, rfl⟩
  | waitForKey x noKey => exact .inr ⟨rfl, rfl, by simp, by simp⟩
  | skip _ taken | skipOnKey _ taken =>
    exact .inr ⟨by simp, by simp, by simp [running],
      fun failed => absurd failed (State.skipIf_status_ne_failed _ taken)⟩
  | load | loadWithFlag | loadIndex | jump | call | ret | clear | draw | setDelay | setSound | storeDigits | store =>
    exact .inr ⟨rfl, rfl, by simp [running], by simp⟩

/-- Where no word is fetched, one would lie outside memory (R72). -/
theorem State.outside_of_fetchWord_eq_none {s : State} (noWord : s.fetchWord = none) :
    s.cfg.memSize ≤ s.pc.toNat + 1 := by
  by_contra inside
  cases noWord.symm.trans (State.fetchWord_inside (Nat.not_le.1 inside))

/-- The core's step in phase `RUN` takes a fault that is due or none (R311, R312). -/
theorem coreStep_faultDue_or_noFaultTaken {s t : State} (running : s.phase = .run) (answered : coreStep s = .next t) :
    (∃ cause info, FaultDue s cause info ∧ t = s.raise cause info) ∨ NoFaultTaken s t := by
  rcases coreStep_run running with ⟨noWord, core⟩ | ⟨w, fetched, ⟨e, bad, core⟩ | ⟨i, decoded, core⟩⟩
  · cases core.symm.trans answered
    exact .inl ⟨_, _, .fetch (State.outside_of_fetchWord_eq_none noWord), rfl⟩
  · cases core.symm.trans answered
    exact .inl ⟨_, _, .word w e ((s.fetchWord_iff w).1 fetched) bad, rfl⟩
  · exact (effect_of_exec (core.symm.trans answered)).faultDue_or_noFaultTaken running
      ((s.decodes_iff i).2 ⟨w, fetched, decoded⟩)

/-- A halted core's step is the fault outcome with its record (R313, log 4). -/
theorem coreStep_halted {s : State} (halted : s.phase = .halted) :
    coreStep s = .fault (.halted s.faultCause s.faultInfo) := by
  simp [coreStep, halted]

/-- A core that is not halted answers a next state (R140, R281). -/
theorem coreStep_answers {s : State} (notHalted : s.phase ≠ .halted) : ∃ t, coreStep s = .next t := by
  cases phase : s.phase with
  | run =>
    rcases coreStep_run phase with ⟨_, core⟩ | ⟨w, _, ⟨_, _, core⟩ | ⟨i, _, core⟩⟩
    · exact ⟨_, core⟩
    · exact ⟨_, core⟩
    · obtain ⟨t, answered, _⟩ := exec_effect i s
      exact ⟨t, core.trans answered⟩
  | waitKey x => exact ⟨_, coreStep_waitKey phase⟩
  | halted => exact absurd phase notHalted

/-- Settles O42: the core takes the fault that is due; where none is due its step takes none. -/
theorem faultsAreThoseListed : Obligations.FaultsAreThoseListed := by
  intro s running
  refine ⟨fun cause info due => ⟨_, coreStep_of_faultDue running due, s.raise_faulted cause info⟩,
    fun noneDue => ?_, fun _ _ _ _ => FaultDue.unique running⟩
  obtain ⟨t, answered⟩ := coreStep_answers (s := s) (by simp [running])
  rcases coreStep_faultDue_or_noFaultTaken running answered with ⟨cause, info, due, _⟩ | noFault
  · exact absurd due (noneDue cause info)
  · exact ⟨t, answered, noFault.faultCause, noFault.faultInfo, noFault.notHalted, noFault.notFailed⟩

/-- Settles O43, by the core's step, which the agents after it do not stop. -/
theorem onlyHaltedCoreStops : Obligations.OnlyHaltedCoreStops := by
  intro s
  refine ⟨fun halted => by simp [step, coreStep_halted halted], fun notHalted => ?_⟩
  obtain ⟨t, core⟩ := coreStep_answers notHalted
  exact ⟨_, step_of_coreStep core⟩

/-- The key wait never halts the core (R281). -/
theorem State.keyWaitStep_phase_ne_halted {s : State} {x : Nibble} (waiting : s.phase = .waitKey x) :
    (s.keyWaitStep x).phase ≠ .halted := by
  rcases s.keyWaitStep_cases x with ⟨holds, _⟩ | ⟨k, _, _, completes⟩
  · simp [holds, waiting]
  · simp [completes]

/-- A core's step that ends halted took a fault that was due, under `FAIL_POLICY = HALT` (R312, R313, R339). -/
theorem coreStep_halts {s t : State} (answered : coreStep s = .next t) (halts : t.phase = .halted) :
    s.phase = .run ∧ s.cfg.failPolicy = .halt ∧ ∃ cause info, FaultDue s cause info ∧ t = s.raise cause info := by
  cases phase : s.phase with
  | run =>
    rcases coreStep_faultDue_or_noFaultTaken phase answered with ⟨cause, info, due, rfl⟩ | noFault
    · rw [State.raise_phase, phase] at halts
      exact ⟨rfl, phaseAfterFault_halted halts, cause, info, due, rfl⟩
    · exact absurd halts noFault.notHalted
  | waitKey x =>
    cases (coreStep_waitKey phase).symm.trans answered
    exact absurd halts (State.keyWaitStep_phase_ne_halted phase)
  | halted => cases (coreStep_halted phase).symm.trans answered

/-- Settles O44: the agents do not touch a halted core, so the step's state is the one the fault left. -/
theorem onlyFaultsHalt : Obligations.OnlyFaultsHalt := by
  intro s t answered halts
  obtain ⟨u, core, rfl⟩ := step_next answered
  obtain ⟨_, _, _, _, _, _, _, _, _, phase, _⟩ := u.between_core s.currentInputs
  rw [phase] at halts
  rw [State.between_halted halts]
  obtain ⟨running, policy, cause, info, due, rfl⟩ := coreStep_halts core halts
  exact ⟨running, policy, due, s.raise_faulted cause info⟩

end Sys2Proof.Machine
end

section
/-! The agents between two steps (60_exceptions.md R330, R332, R334). -/
namespace Sys2Proof.Machine

/-- Settles O49: each timer is lowered tick by tick, and `KEY` is what the keyboard wrote, if it wrote. -/
theorem betweenSteps : Obligations.BetweenSteps := by
  intro s answers notHalted
  rw [State.between_running notHalted]
  refine ⟨ticksTimer_toNat .., ticksTimer_toNat .., fun k written => ?_, fun silent => ?_, rfl, rfl,
    { Keeps.refl _ s with delay := by simp, sound := by simp, key := by simp }⟩
  · simp [written]
  · simp [silent]

end Sys2Proof.Machine
end

section
/-! The transactions of a step (60_exceptions.md R340): how many there are and in which order, and that they account for
what the step does to memory and to the framebuffer. -/
namespace Sys2Proof.Machine

/-- Only a running core accesses memory and the framebuffer. -/
theorem State.transactions_of_not_running {s : State} (notRunning : s.phase ≠ .run) : s.transactions = [] := by
  unfold State.transactions
  cases phase : s.phase with
  | run => exact absurd phase notRunning
  | waitKey x => rfl
  | halted => rfl

/-- Where no word is in memory at `PC`, nothing is read (R72). -/
theorem State.transactions_of_fetchWord_none {s : State} (running : s.phase = .run) (fetched : s.fetchWord = none) :
    s.transactions = [] := by
  simp [State.transactions, running, fetched]

/-- A running core reads the two bytes of the word at `PC` and goes on with the word's accesses (R72). -/
theorem State.transactions_of_fetchWord {s : State} {w : Word} (running : s.phase = .run)
    (fetched : s.fetchWord = some w) :
    s.transactions = .fetchRead s.pc.toNat :: .fetchRead (s.pc.toNat + 1) :: s.accessesOfWord w := by
  simp [State.transactions, running, fetched]

/-- An unimplemented word makes no access (R312). -/
theorem State.accessesOfWord_of_error {s : State} {w : Word} {e : DecodeError}
    (bad : decodeWord s.cfg.strictDecode w = .error e) : s.accessesOfWord w = [] := by
  simp [State.accessesOfWord, bad]

/-- A word that decodes makes the accesses of its instruction. -/
theorem State.accessesOfWord_of_ok {s : State} {w : Word} {i : Instr}
    (decoded : decodeWord s.cfg.strictDecode w = .ok i) : s.accessesOfWord w = accessesOf i s := by
  simp [State.accessesOfWord, decoded]

/-! The number and order of the accesses. -/

/-- Data reads only, at most 15, or data writes only, at most 3 (R340). -/
def DataBounded (data : List Transaction) : Prop :=
  (data.all Transaction.isDataRead = true ∧ data.length ≤ 15) ∨
    (data.all Transaction.isDataWrite = true ∧ data.length ≤ 3)

/-- The accesses of an instruction as R340 bounds them: data accesses, then at most one framebuffer call. -/
def AccessesBounded (accesses : List Transaction) : Prop :=
  ∃ data calls : List Transaction, accesses = data ++ calls ∧ DataBounded data ∧
    calls.all Transaction.isFbCall = true ∧ calls.length ≤ 1

theorem AccessesBounded.nil : AccessesBounded [] :=
  ⟨[], [], rfl, .inl ⟨rfl, by decide⟩, rfl, by decide⟩

/-- Accesses under a range check are bounded if they are bounded where it passes (R78). -/
theorem AccessesBounded.ifRange {accesses : List Transaction} (bounded : AccessesBounded accesses) (s : State)
    (n : Nat) : AccessesBounded (s.ifRange n accesses) := by
  unfold State.ifRange
  split
  · exact bounded
  · exact .nil

/-- Data accesses without a framebuffer call. -/
theorem DataBounded.accessesBounded {data : List Transaction} (bounded : DataBounded data) : AccessesBounded data :=
  ⟨data, [], (List.append_nil data).symm, bounded, rfl, by decide⟩

/-- A sprite has at most 15 bytes to read (R272). -/
theorem dataReads_bounded (a : Nat) (n : Nibble) : DataBounded (dataReads a n.toNat) := by
  obtain ⟨reads, size⟩ := dataReads_shape n.toNat a
  exact .inl ⟨reads, size.le.trans (Nat.le_of_lt_succ n.isLt)⟩

/-- The accesses of every instruction are bounded (R71, R340). -/
theorem accessesOf_bounded (i : Instr) (s : State) : AccessesBounded (accessesOf i s) := by
  cases i with
  | cls => exact ⟨[], [.fbClear], rfl, .inl ⟨rfl, by decide⟩, rfl, le_rfl⟩
  | drw x y n =>
    refine AccessesBounded.ifRange ?_ s n.toNat
    exact ⟨_, [.fbRender (s.readV x) (s.readV y) n (s.sprite n)], rfl, dataReads_bounded s.i.toNat n, rfl, le_rfl⟩
  | ldBVx x => exact (DataBounded.accessesBounded (.inr ⟨rfl, le_rfl⟩)).ifRange s 3
  | ldMemVx x => exact (DataBounded.accessesBounded (.inr ⟨rfl, by simp⟩)).ifRange s 1
  | ldVxMem x => exact (DataBounded.accessesBounded (.inl ⟨rfl, by simp⟩)).ifRange s 1
  | _ => exact .nil

/-- The accesses of every fetched word are bounded, whether it decodes or not. -/
theorem State.accessesOfWord_bounded (s : State) (w : Word) : AccessesBounded (s.accessesOfWord w) := by
  cases decoded : decodeWord s.cfg.strictDecode w with
  | error e => rw [State.accessesOfWord_of_error decoded]; exact .nil
  | ok i => rw [State.accessesOfWord_of_ok decoded]; exact accessesOf_bounded i s

/-- Fetch reads, at most 2, and then the accesses of an instruction: the bounds of a step. -/
theorem State.transactions_split (s : State) : ∃ fetches accesses, s.transactions = fetches ++ accesses ∧
    fetches.all Transaction.isFetch = true ∧ fetches.length ≤ 2 ∧ AccessesBounded accesses := by
  by_cases running : s.phase = .run
  · cases fetched : s.fetchWord with
    | none => exact ⟨[], [], State.transactions_of_fetchWord_none running fetched, rfl, by decide, .nil⟩
    | some w =>
      exact ⟨[.fetchRead s.pc.toNat, .fetchRead (s.pc.toNat + 1)], _,
        State.transactions_of_fetchWord running fetched, rfl, le_rfl, s.accessesOfWord_bounded w⟩
  · exact ⟨[], [], State.transactions_of_not_running running, rfl, by decide, .nil⟩

/-- Settles O59: the fetch reads, then the bounded accesses of the instruction. -/
theorem transactionBounds : Obligations.TransactionBounds := by
  intro s
  obtain ⟨fetches, _, split, areFetches, atMostTwo, data, calls, rfl, bounded, areCalls, atMostOne⟩ :=
    s.transactions_split
  exact ⟨fetches, data, calls, by rw [split, List.append_assoc], areFetches, atMostTwo, bounded, areCalls, atMostOne⟩

/-! What the accesses do. -/

/-- From `s` to `t` memory and framebuffer changed as `accesses` say, in their order, and each data access lies in
memory (R71, R77, R340). -/
structure AccountedBy (accesses : List Transaction) (s t : State) : Prop where
  memory : t.mem = accesses.foldl (fun m a => a.onMemory s.cfg m) s.mem
  pixels : t.fb = accesses.foldl (fun fb a => a.onFramebuffer s.cfg fb) s.fb
  writesInside : ∀ a b, Transaction.dataWrite a b ∈ accesses → a < s.cfg.memSize
  readsInside : ∀ a, Transaction.dataRead a ∈ accesses → a < s.cfg.memSize

section
variable {s t : State} {accesses : List Transaction}

/-- No access accounts for a step that leaves memory and framebuffer alone. -/
theorem AccountedBy.nil (memory : t.mem = s.mem) (pixels : t.fb = s.fb) : AccountedBy [] s t :=
  ⟨memory, pixels, by simp, by simp⟩

/-- A fault is precise: it comes with no access (R312). -/
theorem AccountedBy.raise (s : State) (cause : FaultCause) (info : Word) :
    AccountedBy [] s (s.raise cause info) := .nil rfl rfl

/-- A fetch read changes nothing and is no data access. -/
theorem AccountedBy.fetchRead (accounted : AccountedBy accesses s t) (a : Nat) :
    AccountedBy (.fetchRead a :: accesses) s t where
  memory := accounted.memory
  pixels := accounted.pixels
  writesInside a b written := accounted.writesInside a b (by simpa using written)
  readsInside a read := accounted.readsInside a (by simpa using read)

/-- The agents between two steps access neither memory nor the framebuffer (R330). -/
theorem AccountedBy.between (accounted : AccountedBy accesses s t) (answers : Config.Inputs) :
    AccountedBy accesses s (t.between answers) := by
  obtain ⟨_, _, _, _, _, _, _, mem, fb, _⟩ := t.between_core answers
  exact { accounted with memory := mem.trans accounted.memory, pixels := fb.trans accounted.pixels }

/-- An instruction guarded by a range check makes its accesses where the check passes, and otherwise none (R77, R78). -/
theorem AccountedBy.guardRange {after : State} {n : Nat} (answered : s.guardRange n after = .next t)
    (access : s.rangeOk n = true → AccountedBy accesses s after) : AccountedBy (s.ifRange n accesses) s t := by
  unfold State.ifRange
  rcases State.guardRange_cases answered with ⟨ok, rfl⟩ | ⟨bad, rfl⟩
  · rw [if_pos ok]; exact access ok
  · rw [bad]; exact .raise s .memRange s.i

theorem isDataRead_of_mem_dataReads {n a : Nat} {access : Transaction} (listed : access ∈ dataReads a n) :
    access.isDataRead = true :=
  List.all_eq_true.1 (dataReads_shape n a).1 access listed

/-- The addresses of consecutive reads (R74). -/
theorem dataRead_mem_dataReads {n a a' : Nat} (listed : .dataRead a' ∈ dataReads a n) : a ≤ a' ∧ a' < a + n := by
  induction n generalizing a with
  | zero => cases listed
  | succ n ih =>
    rcases List.mem_cons.1 listed with first | later
    · cases first; omega
    · have := ih later; omega

/-- The reads of a sprite and the framebuffer call account for a `DRW` inside memory (R272). -/
theorem accountedBy_drawn {x y n : Nibble} (ok : s.rangeOk n.toNat = true) :
    AccountedBy (dataReads s.i.toNat n.toNat ++ [.fbRender (s.readV x) (s.readV y) n (s.sprite n)]) s
      (s.drawn x y n) where
  memory := by rw [List.foldl_append, dataReads_onMemory]; rfl
  pixels := by rw [List.foldl_append, dataReads_onFramebuffer]; rfl
  writesInside a b written := by
    have listed : .dataWrite a b ∈ dataReads s.i.toNat n.toNat := by simpa using written
    cases isDataRead_of_mem_dataReads listed
  readsInside a read := by
    obtain ⟨above, below⟩ := dataRead_mem_dataReads (n := n.toNat) (a := s.i.toNat) (by simpa using read)
    have inside := (s.rangeOk_iff n.toNat).1 ok (a - s.i.toNat) (by omega)
    omega

/-- An instruction that is no store keeps memory (R71). -/
theorem exec_keeps_mem {i : Instr} (answered : exec i s = .next t)
    (noStore : ∀ x, i ≠ .ldBVx x ∧ i ≠ .ldMemVx x) : t.mem = s.mem := by
  obtain ⟨_, _, _, _, _, mem, _⟩ := writersOfState i s t answered
  by_contra changed
  obtain ⟨x, store⟩ := mem changed
  exact (not_or.2 (noStore x)) store

/-- An instruction that neither clears nor draws keeps the framebuffer (R43). -/
theorem exec_keeps_fb {i : Instr} (answered : exec i s = .next t)
    (noDraw : ∀ ign x y n, i ≠ .cls ign ∧ i ≠ .drw x y n) : t.fb = s.fb := by
  obtain ⟨_, _, _, _, _, _, fb, _⟩ := writersOfState i s t answered
  by_contra changed
  obtain ⟨ign, x, y, n, draw⟩ := fb changed
  exact (not_or.2 (noDraw ign x y n)) draw

/-- The accesses of an instruction account for what it does: those of the five instructions that make some, and no
access for the others, which write neither memory nor the framebuffer (R43, R71). -/
theorem exec_accounted {i : Instr} (answered : exec i s = .next t) : AccountedBy (accessesOf i s) s t := by
  cases i with
  | cls => cases answered; exact ⟨rfl, rfl, by simp [accessesOf], by simp [accessesOf]⟩
  | drw x y n => exact .guardRange answered accountedBy_drawn
  | ldBVx x =>
    refine .guardRange answered fun ok => ?_
    have inside := (s.rangeOk_iff 3).1 ok
    have first := inside 0 (by decide)
    have second := inside 1 (by decide)
    have third := inside 2 (by decide)
    exact ⟨rfl, rfl, by simp; omega, by simp⟩
  | ldMemVx x =>
    refine .guardRange answered fun ok => ?_
    have inside := (s.rangeOk_iff 1).1 ok 0 (by decide)
    exact ⟨rfl, rfl, by simpa using inside, by simp⟩
  | ldVxMem x =>
    refine .guardRange answered fun ok => ?_
    have inside := (s.rangeOk_iff 1).1 ok 0 (by decide)
    exact ⟨rfl, rfl, by simp, by simpa using inside⟩
  | _ => exact .nil (exec_keeps_mem answered (by simp)) (exec_keeps_fb answered (by simp))

/-- The accesses of the core's step account for what it does, in every phase. -/
theorem coreStep_accounted (answered : coreStep s = .next t) : AccountedBy s.transactions s t := by
  cases phase : s.phase with
  | run =>
    rcases coreStep_run phase with ⟨fetched, core⟩ | ⟨w, fetched, ⟨e, bad, core⟩ | ⟨i, decoded, core⟩⟩
    · cases core.symm.trans answered
      rw [State.transactions_of_fetchWord_none phase fetched]
      exact .raise s .fetchRange s.pc
    · cases core.symm.trans answered
      rw [State.transactions_of_fetchWord phase fetched, State.accessesOfWord_of_error bad]
      exact ((AccountedBy.raise s .unimplemented w).fetchRead _).fetchRead _
    · rw [State.transactions_of_fetchWord phase fetched, State.accessesOfWord_of_ok decoded]
      exact ((exec_accounted (core.symm.trans answered)).fetchRead _).fetchRead _
  | waitKey x =>
    rw [State.transactions_of_not_running (by simp [phase])]
    cases (coreStep_waitKey phase).symm.trans answered
    rcases s.keyWaitStep_cases x with ⟨holds, _⟩ | ⟨k, _, _, completes⟩
    · rw [holds]; exact .nil rfl rfl
    · rw [completes]; exact .nil rfl rfl
  | halted => simp [coreStep, phase] at answered

end

/-- Settles O60: the accesses of the core's step account for it, and the agents after it make none. -/
theorem transactionsAccountForStep : Obligations.TransactionsAccountForStep := by
  intro s t answered
  obtain ⟨u, core, rfl⟩ := step_next answered
  obtain ⟨memory, pixels, writesInside, readsInside⟩ := (coreStep_accounted core).between s.currentInputs
  exact ⟨memory, pixels, writesInside, readsInside⟩

end Sys2Proof.Machine
end

section
/-! The timers over a whole step (10_state.md R38, R39; 70_reset_and_hazards.md R364): only its own `LD` changes a timer
inside the core, and the agents after the core's step only lower it. -/
namespace Sys2Proof.Machine

/-- The agents between two steps never raise a timer (R332). -/
theorem State.between_timers_le (s : State) (answers : Config.Inputs) :
    (s.between answers).dt.toNat ≤ s.dt.toNat ∧ (s.between answers).st.toNat ≤ s.st.toNat := by
  by_cases halted : s.phase = .halted
  · rw [State.between_halted halted]
    exact ⟨Nat.le_refl _, Nat.le_refl _⟩
  · rw [State.between_running halted]
    simp only [ticksTimer_toNat]
    exact ⟨Nat.sub_le .., Nat.sub_le ..⟩

/-- The core's step, in any phase, changes a timer only by the instruction that writes it, decoded at `PC`. -/
theorem coreStep_timer_writers {s t : State} (answered : coreStep s = .next t) :
    (t.dt ≠ s.dt → s.phase = .run ∧ ∃ x, Decodes s (.ldDtVx x)) ∧
      (t.st ≠ s.st → s.phase = .run ∧ ∃ x, Decodes s (.ldStVx x)) := by
  cases phase : s.phase with
  | run =>
    rcases coreStep_run phase with ⟨_, core⟩ | ⟨w, fetched, ⟨e, _, core⟩ | ⟨i, decoded, core⟩⟩
    · cases core.symm.trans answered; simp
    · cases core.symm.trans answered; simp
    · have decodes : Decodes s i := (s.decodes_iff i).2 ⟨w, fetched, decoded⟩
      obtain ⟨_, _, delay, sound, _⟩ := writersOfState i s t (core.symm.trans answered)
      refine ⟨fun changed => ?_, fun changed => ?_⟩
      · obtain ⟨x, rfl⟩ := delay changed
        exact ⟨rfl, x, decodes⟩
      · obtain ⟨x, rfl⟩ := sound changed
        exact ⟨rfl, x, decodes⟩
  | waitKey x =>
    cases (coreStep_waitKey phase).symm.trans answered
    rcases s.keyWaitStep_cases x with ⟨holds, _⟩ | ⟨k, _, _, completes⟩
    · simp [holds]
    · simp [completes]
  | halted => cases (coreStep_halted phase).symm.trans answered

/-- Settles O51: the agents only lower a timer, so the core's step changed one that rose. -/
theorem timersRiseOnlyByWrite : Obligations.TimersRiseOnlyByWrite := by
  intro s t answered
  obtain ⟨u, core, rfl⟩ := step_next answered
  obtain ⟨delay, sound⟩ := u.between_timers_le s.currentInputs
  obtain ⟨delayWriter, soundWriter⟩ := coreStep_timer_writers core
  refine ⟨fun rises => delayWriter fun same => ?_, fun rises => soundWriter fun same => ?_⟩
  · rw [same] at delay; omega
  · rw [same] at sound; omega

end Sys2Proof.Machine
end

section
/-! The loader (70_reset_and_hazards.md R351; 60_exceptions.md R336): the image over the reset state, where it fits. -/
namespace Sys2Proof.Machine

/-- The reset state with a program image written from `PROGRAM_START` (R351). -/
def State.loaded (cfg : Config.Params) (image : List Byte) : State :=
  { State.resetWith cfg with mem := Memory.writeBytes cfg [] cfg.programStart.toNat image }

/-- An image that fits is loaded (R351). -/
theorem State.load_of_fits {cfg : Config.Params} {image : List Byte}
    (fits : image.length ≤ cfg.memSize - cfg.programStart.toNat) :
    State.load cfg image = some (State.loaded cfg image) := if_pos fits

/-- An image that does not fit is refused (R351). -/
theorem State.load_eq_none {cfg : Config.Params} {image : List Byte}
    (large : cfg.memSize - cfg.programStart.toNat < image.length) : State.load cfg image = none :=
  if_neg (Nat.not_le.2 large)

/-- Byte `k` of the image stands at `PROGRAM_START + k`. -/
theorem State.memRead_loaded_image (cfg : Config.Params) {image : List Byte} {k : Nat} (inside : k < image.length) :
    (State.loaded cfg image).memRead (cfg.programStart.toNat + k) = image[k] := by
  refine (Memory.read_writeBytes [] cfg.programStart.toNat image _).trans ?_
  simp [inside]

/-- Outside the image memory reads as at reset. -/
theorem State.memRead_loaded_outside (cfg : Config.Params) {image : List Byte} {a : Nat}
    (outside : a < cfg.programStart.toNat ∨ cfg.programStart.toNat + image.length ≤ a) :
    (State.loaded cfg image).memRead a = (State.resetWith cfg).memRead a := by
  refine (Memory.read_writeBytes [] cfg.programStart.toNat image a).trans (dif_neg ?_)
  omega

/-- The loader changes no element but the bytes of the image. -/
theorem State.loaded_keeps (cfg : Config.Params) (image : List Byte) :
    Keeps { bytes := (List.range image.length).map (cfg.programStart.toNat + ·) } (State.resetWith cfg)
      (State.loaded cfg image) :=
  { Keeps.refl _ (State.resetWith cfg) with
    bytes := fun a unlisted => by
      refine State.memRead_loaded_outside cfg ?_
      by_contra inside
      exact unlisted (List.mem_map.2 ⟨a - cfg.programStart.toNat, List.mem_range.2 (by omega), by omega⟩) }

/-- Settles O58: an image that fits is written over the reset state, and a longer one is refused. -/
theorem loaderPlacesImage : Obligations.LoaderPlacesImage := by
  intro cfg image _
  refine ⟨fun fits => ⟨State.loaded cfg image, State.load_of_fits fits, fun k inside => ?_,
    fun _ outside => State.memRead_loaded_outside cfg outside, State.loaded_keeps cfg image, rfl, rfl⟩,
    State.load_eq_none⟩
  rw [State.memRead_loaded_image cfg inside, List.getElem?_eq_getElem inside]

end Sys2Proof.Machine
end
